-- ==== Sys2Proof/Word.lean ====
section
/-! DEFINITION. The block's plain data: bytes, 16-bit values, and a byte sequence (an image or a buffer) held as a length
and the list of its bytes that are not zero. The operations on them stand in Machine/Memory.lean. -/

namespace Sys2Proof

/-- A byte: 8 bits, unsigned (R8). -/
abbrev Byte := BitVec 8

/-- A 16-bit value: the CRC register (R124). -/
abbrev Word16 := BitVec 16

/-- The bytes of an address space that are listed: (address, byte) pairs, in the canonical form of `Memory.wf`
(Machine/Memory.lean): addresses strictly rising, no byte 0x00 listed. An unlisted address reads as 0x00. -/
abbrev Memory := List Host.Cell

/-- A flat byte sequence: an image (R42, R64) or a buffer handed to the buffer-level operations (R155). `len` is `len(b)` of
R10; byte `i` exists for `i < len`. -/
structure ByteSeq where
  len   : Nat
  cells : Memory
deriving DecidableEq, Repr

/-- `zeros(n)` of R10. -/
def ByteSeq.zeros (n : Nat) : ByteSeq := ⟨n, []⟩

end Sys2Proof
end

