-- ==== Sys2Proof/Machine/Memory.lean ====
section
/-! DEFINITION. The named operations over memory: reading a byte, writing a run of bytes, clearing a run. Every byte of an image
or buffer is read and written through these (R42, R64). -/

namespace Sys2Proof

/-- The byte at an address; an unlisted address reads as 0x00 (log 7). -/
def Memory.read : Memory → Nat → Byte
  | [], _ => 0#8
  | (k, v) :: m, a => if k = a then v else Memory.read m a

/-- The canonical form from a lower bound on: addresses strictly rising, no byte 0x00 listed. -/
def Memory.wfFrom : Nat → Memory → Bool
  | _, [] => true
  | lo, (k, v) :: m => decide (lo ≤ k) && decide (v ≠ 0#8) && Memory.wfFrom (k + 1) m

/-- The canonical form of a memory. -/
def Memory.wf (m : Memory) : Bool := Memory.wfFrom 0 m

/-- The cells of a run of bytes laid at an address; a byte 0x00 is not listed. -/
def Memory.cellsFrom : Nat → List Byte → Memory
  | _, [] => []
  | a, v :: vs => if v = 0#8 then Memory.cellsFrom (a + 1) vs else (a, v) :: Memory.cellsFrom (a + 1) vs

/-- The memory with the bytes at `off, off+1, …` replaced by `data`. -/
def Memory.write (m : Memory) (off : Nat) (data : List Byte) : Memory :=
  m.filter (fun c => decide (c.1 < off)) ++ (Memory.cellsFrom off data
    ++ m.filter (fun c => decide (off + data.length ≤ c.1)))

/-- The memory with `n` bytes from `off` on replaced by 0x00. -/
def Memory.clear (m : Memory) (off n : Nat) : Memory :=
  m.filter (fun c => decide (c.1 < off)) ++ m.filter (fun c => decide (off + n ≤ c.1))

/-- Byte `i` of a byte sequence (R10 `b[i]`). -/
def ByteSeq.read (b : ByteSeq) (i : Nat) : Byte := b.cells.read i

/-- Byte `i` of a byte sequence where it exists. -/
def ByteSeq.byte? (b : ByteSeq) (i : Nat) : Option Byte := if i < b.len then some (b.read i) else none

/-- `b[off .. off+n-1]` (R10). -/
def ByteSeq.slice (b : ByteSeq) (off n : Nat) : List Byte := (List.range' off n).map b.read

/-- `b[off .. off+len(data)-1] <- data` (R10). -/
def ByteSeq.write (b : ByteSeq) (off : Nat) (data : List Byte) : ByteSeq := { b with cells := b.cells.write off data }

/-- `b[off .. off+n-1] <- zeros(n)` (R10). -/
def ByteSeq.clear (b : ByteSeq) (off n : Nat) : ByteSeq := { b with cells := b.cells.clear off n }

/-- The bytes at the listed offsets replaced, in the order listed (R181). -/
def ByteSeq.replace (b : ByteSeq) (cells : List Host.Cell) : ByteSeq :=
  cells.foldl (fun b c => b.write c.1 [c.2]) b

/-- A byte sequence in canonical form: its cells are canonical and lie below its length. -/
def ByteSeq.wf (b : ByteSeq) : Bool := b.cells.wf && b.cells.all (fun c => decide (c.1 < b.len))

end Sys2Proof
end

