-- ==== Sys2Proof/Config.lean ====
section
/-! DEFINITION. What does not change while the machine runs: the constants of R6, the register offsets of R91, the parameters
R7 leaves open (a record, carried by State as constant data), and the free values. -/

namespace Sys2Proof

/-- The two drive slots (R6 `NDRIVES`, R12). The absent drive of R12 is `none : Option Drive`. -/
inductive Drive where
  | A | B
deriving DecidableEq, Repr

namespace Config

/-- R6 `SECTOR_BYTES`. -/
abbrev sectorBytes : Nat := 512
/-- R6 `SPT`. -/
abbrev sectorsPerTrack : Nat := 9
/-- R6 `TRACKS`. -/
abbrev tracks : Nat := 40
/-- R6 `NSECTORS`: `TRACKS * SPT`. -/
abbrev nSectors : Nat := 360
/-- R6 `IMG_360K`. -/
abbrev img360K : Nat := 368640
/-- R6 `IMG_720K`. -/
abbrev img720K : Nat := 737280
/-- R6 `CRC_POLY`. -/
abbrev crcPoly : Word16 := 0xA001#16
/-- R6 `CRC_COVER`. -/
abbrev crcCover : Nat := 510
/-- R6 `WRITE_XFER_BYTES`. -/
abbrev writeXferBytes : Nat := 512
/-- R6 `SEEK_LATENCY_MS`. -/
abbrev seekLatencyMs : Nat := 10
/-- R6 `RECAL_LATENCY_MS`. -/
abbrev recalLatencyMs : Nat := 100
/-- R6 `NREGS`. -/
abbrev nRegs : Nat := 10

/-- R7 `REG_OFFSET`: the window offset of each register. -/
structure RegOffsets where
  command     : Nat
  status      : Nat
  data        : Nat
  driveSelect : Nat
  track       : Nat
  sector      : Nat
  dmaAddrLow  : Nat
  dmaAddrHigh : Nat
  dmaCount    : Nat
  control     : Nat
deriving DecidableEq, Repr

/-- The ten offsets in the order of R91. -/
def RegOffsets.toList (o : RegOffsets) : List Nat :=
  [o.command, o.status, o.data, o.driveSelect, o.track, o.sector, o.dmaAddrLow, o.dmaAddrHigh, o.dmaCount, o.control]

/-- R7 `OPC`: the byte value of each command. -/
structure Opcodes where
  readSector     : Byte
  writeSector    : Byte
  seekTrack      : Byte
  readStatus     : Byte
  formatTrack    : Byte
  readId         : Byte
  recalibrate    : Byte
  senseInterrupt : Byte
deriving DecidableEq, Repr

/-- The eight opcode values in the order of R94. -/
def Opcodes.toList (o : Opcodes) : List Byte :=
  [o.readSector, o.writeSector, o.seekTrack, o.readStatus, o.formatTrack, o.readId, o.recalibrate, o.senseInterrupt]

/-- R7 `STBIT`: the bit position of each status flag. -/
structure StatusBits where
  busy          : Fin 8
  dataRequest   : Fin 8
  dataDirection : Fin 8
  track0        : Fin 8
  seekComplete  : Fin 8
  crcError      : Fin 8
  driveReady    : Fin 8
  driveFault    : Fin 8
deriving DecidableEq, Repr

/-- The eight positions in the order of R99. -/
def StatusBits.toList (b : StatusBits) : List (Fin 8) :=
  [b.busy, b.dataRequest, b.dataDirection, b.track0, b.seekComplete, b.crcError, b.driveReady, b.driveFault]

/-- R7 `SIDE1_OFFSET`: exactly the three admitted values (R65): 0, 184,320, 368,640. -/
inductive Side1 where
  | aliased | continued | upperHalf
deriving DecidableEq, Repr

/-- The parameters R7 leaves open, as plain data (log 1). -/
structure Params where
  /-- R7 `FDC_BASE`, a model argument (R61, D1). The spec gives no width of a bus address (R63, N2). DESIGN CHOICE: an unbounded
  natural number, so that no address and no window wraps (log 21). -/
  fdcBase        : Nat
  /-- R7 `FDC_WINDOW`, 10 or more (D3). -/
  window         : Nat
  /-- R7 `REG_OFFSET`, injective into the window (D2). -/
  regOffset      : RegOffsets
  /-- R7 `OPC`. -/
  opc            : Opcodes
  /-- R7 `STBIT`. -/
  stbit          : StatusBits
  /-- R7 `AWAIT_DIR`: true for 1. -/
  awaitDir       : Bool
  /-- R7 `DMA_LIMIT_ZERO`, 1 to 512. -/
  dmaLimitZero   : Nat
  /-- R7 `DRIVE_CODE`: a byte not listed selects no drive; the first entry of a byte counts. -/
  driveCode      : List (Byte × Drive)
  /-- R7 `SIDE1_OFFSET`. -/
  side1          : Side1
  /-- R7 `CRC_INIT`. -/
  crcInit        : Word16
  /-- R7 `CRC_XOROUT`. -/
  crcXorOut      : Word16
  /-- R7 `CRC_CHECK_ON_READ`. -/
  crcCheckOnRead : Bool
deriving DecidableEq, Repr

/-- The defaults of R7. `FDC_BASE` has no default in the spec (D1); 0 stands there and no rule depends on it (log 1). -/
def Params.default : Params where
  fdcBase := 0
  window := 16
  regOffset := ⟨0x0, 0x1, 0x2, 0x3, 0x4, 0x5, 0x6, 0x7, 0x8, 0x9⟩
  opc := ⟨0x01#8, 0x02#8, 0x03#8, 0x04#8, 0x05#8, 0x06#8, 0x07#8, 0x08#8⟩
  stbit := ⟨0, 1, 2, 3, 4, 5, 6, 7⟩
  awaitDir := true
  dmaLimitZero := 512
  driveCode := [(0x00#8, .A), (0x01#8, .B)]
  side1 := .aliased
  crcInit := 0x0000#16
  crcXorOut := 0x0000#16
  crcCheckOnRead := false

/-- The constraints R7 and R101 put on the parameters: opcodes and bit positions injective, BUSY in bits 0 to 3,
`DMA_LIMIT_ZERO` in 1 to 512, `FDC_WINDOW` at least 10, register offsets injective and inside the window. -/
def Params.valid (p : Params) : Bool :=
  decide p.opc.toList.Nodup && decide p.stbit.toList.Nodup && decide (p.stbit.busy.val < 4)
    && decide (1 ≤ p.dmaLimitZero) && decide (p.dmaLimitZero ≤ 512) && decide p.regOffset.toList.Nodup
    && decide (nRegs ≤ p.window) && p.regOffset.toList.all (fun o => decide (o < p.window))

/-- The number of pass-through bytes, `FDC_WINDOW - 10` (R20, R31). -/
def Params.padBytes (p : Params) : Nat := p.window - nRegs

/-- FREE VALUE (log 11): a Boolean the spec leaves open, one for each use, counted by `State.freeIdx`. No body: nothing is known
of it. -/
opaque freeBool : Nat → Bool

end Config
end Sys2Proof
end

