-- ==== Sys2Proof/Syntax.lean ====
section
/-! DEFINITION. The operations of R13, one constructor per row of spec/opcode_table.json, with their operands; and a request, the
form in which an agent asks the block for one of them (R90's three formats, and a bus access by bus address, R10). -/

namespace Sys2Proof

/-- The ten registers of R21. -/
inductive RegName where
  | command | status | data | driveSelect | track | sector | dmaAddrLow | dmaAddrHigh | dmaCount | control
deriving DecidableEq, Repr

/-- Which buffer a buffer-level operation works on: one handed to it (R155, R156), or the image of a slot, when the host applies
the operation to `Img(d)` (R169, R181; log 13). -/
inductive BufRef where
  | handed (b : ByteSeq)
  | slot (d : Option Drive)
deriving DecidableEq, Repr

/-- The two forms of HOST.IMAGE (R181): read any bytes of `Img(d)`, or replace any bytes of it. -/
inductive ImageOp where
  | readBytes (offsets : List Nat)
  | replaceBytes (cells : List Host.Cell)
deriving DecidableEq, Repr

/-- Whether the backing store's I/O of a host operation succeeds (R170, R260 class 5): the host's, so an operand (log 10). -/
inductive IoOutcome where
  | ok | error
deriving DecidableEq, Repr

/-- The operations of R13: format CMD, format REG, format UNIT. -/
inductive Instr where
  -- format CMD: the byte written to COMMAND
  | readSector
  | writeSector
  | seekTrack
  | readStatus
  | formatTrack
  | readId
  | recalibrate
  | senseInterrupt
  | invalid (v : Byte)
  -- format REG: an access to the register window
  | rdCommand
  | wrCommand (v : Byte)
  | rdStatus
  | wrStatus (v : Byte)
  | rdData
  | wrData (v : Byte)
  | rdDriveSelect
  | wrDriveSelect (v : Byte)
  | rdTrack
  | wrTrack (v : Byte)
  | rdSector
  | wrSector (v : Byte)
  | rdDmaAddrLow
  | wrDmaAddrLow (v : Byte)
  | rdDmaAddrHigh
  | wrDmaAddrHigh (v : Byte)
  | rdDmaCount
  | wrDmaCount (v : Byte)
  | rdControl
  | wrControl (v : Byte)
  | rdPad (k : Nat)
  | wrPad (k : Nat) (v : Byte)
  -- format UNIT: no bit encoding, typed operands
  | crcCompute (data : List Byte)
  | crcVerify (sector : List Byte)
  | satP2L (track sector : Nat)
  | satL2P (index : Nat)
  | secRead (b : BufRef) (track sector : Nat)
  | secWrite (b : BufRef) (track sector : Nat) (data : List Byte)
  | secReadM (b : BufRef) (track sector count : Nat)
  | secWriteM (b : BufRef) (track sector : Nat) (data : List Byte)
  | secFmtTrk (b : BufRef) (track : Nat)
  | secFmtDsk (b : BufRef)
  | arbRead (d : Option Drive) (track sector : Nat)
  | arbWrite (d : Option Drive) (track sector : Nat) (data : List Byte)
  | arbFmtTrk (d : Option Drive) (track : Nat)
  | hostMount (d : Option Drive) (image : Option ByteSeq)
  | hostUnmount (d : Option Drive) (io : IoOutcome)
  | hostPersist (d : Option Drive) (io : IoOutcome)
  | hostSaveAll (ioA ioB : IoOutcome)
  | hostUnmountAll (ioA ioB : IoOutcome)
  | hostCreate (path : String) (is720KB : Bool) (io : IoOutcome)
  | hostImage (d : Option Drive) (op : ImageOp)
  | fire
  | reset
deriving DecidableEq, Repr

/-- The three formats of R90. -/
inductive Format where
  | cmd | reg | unit
deriving DecidableEq, Repr

/-- The format of each operation (the "format" column of spec/opcode_table.json). -/
def Instr.format : Instr → Format
  | .readSector | .writeSector | .seekTrack | .readStatus | .formatTrack | .readId | .recalibrate | .senseInterrupt
  | .invalid _ => .cmd
  | .rdCommand | .wrCommand _ | .rdStatus | .wrStatus _ | .rdData | .wrData _ | .rdDriveSelect | .wrDriveSelect _
  | .rdTrack | .wrTrack _ | .rdSector | .wrSector _ | .rdDmaAddrLow | .wrDmaAddrLow _ | .rdDmaAddrHigh | .wrDmaAddrHigh _
  | .rdDmaCount | .wrDmaCount _ | .rdControl | .wrControl _ | .rdPad _ | .wrPad _ _ => .reg
  | .crcCompute _ | .crcVerify _ | .satP2L _ _ | .satL2P _ | .secRead _ _ _ | .secWrite _ _ _ _ | .secReadM _ _ _ _
  | .secWriteM _ _ _ _ | .secFmtTrk _ _ | .secFmtDsk _ | .arbRead _ _ _ | .arbWrite _ _ _ _ | .arbFmtTrk _ _
  | .hostMount _ _ | .hostUnmount _ _ | .hostPersist _ _ | .hostSaveAll _ _ | .hostUnmountAll _ _ | .hostCreate _ _ _
  | .hostImage _ _ | .fire | .reset => .unit

/-- The direction of a bus access, with the byte of a write (R90: for a read the data byte is the result). -/
inductive Access where
  | rd
  | wr (v : Byte)
deriving DecidableEq, Repr

/-- What an agent presents to the block: the formats of R90, and a byte access by bus address (R10, R61). -/
inductive Request where
  /-- Format CMD: the bus master writes this byte to COMMAND. -/
  | cmd (v : Byte)
  /-- Format REG: an access at a window offset, 0 to `FDC_WINDOW` - 1 (R90, R91). -/
  | reg (off : Nat) (a : Access)
  /-- `MemRead`/`MemWrite` of R10: an access at a bus address, inside the window or outside it. DESIGN CHOICE: a bus address, whose
  width the spec does not give (R63, N2), is an unbounded natural number (log 21). -/
  | mem (addr : Nat) (a : Access)
  /-- Format UNIT: the operation invoked on its internal interface. -/
  | unit (op : Instr)
deriving DecidableEq, Repr

end Sys2Proof
end

