-- ==== Sys2Proof/WellFormed.lean ====
section
/-! DEFINITION. Which operations are well formed: the operand types the spec gives where Lean's type is wider. -/

namespace Sys2Proof

/-- A buffer operand is well formed: a handed buffer is in canonical form. -/
def BufRef.wf : BufRef → Bool
  | .handed b => b.wf
  | .slot _ => true

/-- A well-formed operation: INVALID's byte is no opcode (R94, R238); a sector is 512 bytes (R125, R157); a multi-sector payload
is whole sectors (R159); a pass-through byte is one the window has (R31); a byte sequence handed over is in canonical form. -/
def Instr.wf (p : Config.Params) : Instr → Bool
  | .invalid v => decide (v ∉ p.opc.toList)
  | .crcVerify sector => decide (sector.length = Config.sectorBytes)
  | .secRead b _ _ => b.wf
  | .secWrite b _ _ data => b.wf && decide (data.length = Config.sectorBytes)
  | .secReadM b _ _ _ => b.wf
  | .secWriteM b _ _ data => b.wf && decide (data.length % Config.sectorBytes = 0)
  | .secFmtTrk b _ => b.wf
  | .secFmtDsk b => b.wf
  | .arbWrite _ _ _ data => decide (data.length = Config.sectorBytes)
  | .hostMount _ (some image) => image.wf
  | .hostMount _ none => true
  | .readSector | .writeSector | .seekTrack | .readStatus | .formatTrack | .readId | .recalibrate | .senseInterrupt => true
  | .rdCommand | .wrCommand _ | .rdStatus | .wrStatus _ | .rdData | .wrData _ | .rdDriveSelect | .wrDriveSelect _
  | .rdTrack | .wrTrack _ | .rdSector | .wrSector _ | .rdDmaAddrLow | .wrDmaAddrLow _ | .rdDmaAddrHigh | .wrDmaAddrHigh _
  | .rdDmaCount | .wrDmaCount _ | .rdControl | .wrControl _ => true
  | .rdPad k | .wrPad k _ => decide (k < p.padBytes)
  | .crcCompute _ | .satP2L _ _ | .satL2P _ | .arbRead _ _ _ | .arbFmtTrk _ _ | .hostUnmount _ _ | .hostPersist _ _
  | .hostSaveAll _ _ | .hostUnmountAll _ _ | .hostCreate _ _ _ | .hostImage _ _ | .fire | .reset => true

end Sys2Proof
end

