-- ==== Sys2Proof/Decode.lean ====
section
/-! DEFINITION. Decoding a request into an operation (R61, R90, R91, R94, R95), total and rejecting by name, and the encoder
beside it. -/

namespace Sys2Proof

/-- Why a request is not an operation of the block. -/
inductive DecodeError where
  /-- A bus address or an offset outside the window: the access does not reach the block (R202). -/
  | outsideWindow
  /-- A unit operation with an operand its type excludes (`Instr.wf`; R157, R159, U21). -/
  | illFormed
  /-- A bus or command operation presented on a unit interface (R90: only format UNIT is invoked there). -/
  | notAUnitOperation
deriving DecidableEq, Repr

/-- The command a byte written to COMMAND selects, by exact match of the whole byte; any other byte is INVALID (R94, R95). -/
def decodeCommand (p : Config.Params) (v : Byte) : Instr :=
  if v = p.opc.readSector then .readSector
  else if v = p.opc.writeSector then .writeSector
  else if v = p.opc.seekTrack then .seekTrack
  else if v = p.opc.readStatus then .readStatus
  else if v = p.opc.formatTrack then .formatTrack
  else if v = p.opc.readId then .readId
  else if v = p.opc.recalibrate then .recalibrate
  else if v = p.opc.senseInterrupt then .senseInterrupt
  else .invalid v

/-- The window offsets that are not one of the ten register offsets, rising: those of the pass-through bytes (R31). -/
def padOffsets (p : Config.Params) : List Nat := (List.range p.window).filter (fun o => decide (o ∉ p.regOffset.toList))

/-- The register at a window offset, or the index of the pass-through byte there (R31, R91). With the ten registers at the offsets
0 to 9, in any order, the byte at `off` is `pad[off - 10]` (R9, R190); R9 gives no numbering for other register offsets. DESIGN
CHOICE: the pass-through bytes are numbered in the order of their offsets (log 2). -/
def decodeOffset (p : Config.Params) (off : Nat) : RegName ⊕ Nat :=
  if off = p.regOffset.command then .inl .command
  else if off = p.regOffset.status then .inl .status
  else if off = p.regOffset.data then .inl .data
  else if off = p.regOffset.driveSelect then .inl .driveSelect
  else if off = p.regOffset.track then .inl .track
  else if off = p.regOffset.sector then .inl .sector
  else if off = p.regOffset.dmaAddrLow then .inl .dmaAddrLow
  else if off = p.regOffset.dmaAddrHigh then .inl .dmaAddrHigh
  else if off = p.regOffset.dmaCount then .inl .dmaCount
  else if off = p.regOffset.control then .inl .control
  else .inr ((padOffsets p).idxOf off)

/-- The operation of an access to a register. -/
def decodeRegister (r : RegName) (a : Access) : Instr :=
  match r, a with
  | .command, .rd => .rdCommand
  | .command, .wr v => .wrCommand v
  | .status, .rd => .rdStatus
  | .status, .wr v => .wrStatus v
  | .data, .rd => .rdData
  | .data, .wr v => .wrData v
  | .driveSelect, .rd => .rdDriveSelect
  | .driveSelect, .wr v => .wrDriveSelect v
  | .track, .rd => .rdTrack
  | .track, .wr v => .wrTrack v
  | .sector, .rd => .rdSector
  | .sector, .wr v => .wrSector v
  | .dmaAddrLow, .rd => .rdDmaAddrLow
  | .dmaAddrLow, .wr v => .wrDmaAddrLow v
  | .dmaAddrHigh, .rd => .rdDmaAddrHigh
  | .dmaAddrHigh, .wr v => .wrDmaAddrHigh v
  | .dmaCount, .rd => .rdDmaCount
  | .dmaCount, .wr v => .wrDmaCount v
  | .control, .rd => .rdControl
  | .control, .wr v => .wrControl v

/-- The operation of a window access (R190, R191). -/
def decodeAccess (p : Config.Params) (off : Nat) (a : Access) : Instr :=
  match decodeOffset p off, a with
  | .inl r, a => decodeRegister r a
  | .inr k, .rd => .rdPad k
  | .inr k, .wr v => .wrPad k v

/-- The window offset a bus address selects, if it lies in the window (R10, R61). -/
def windowOffset (p : Config.Params) (addr : Nat) : Option Nat :=
  if p.fdcBase ≤ addr ∧ addr < p.fdcBase + p.window then some (addr - p.fdcBase) else none

/-- The operation a request asks for. -/
def decode (p : Config.Params) : Request → Except DecodeError Instr
  | .cmd v => .ok (decodeCommand p v)
  | .reg off a => if off < p.window then .ok (decodeAccess p off a) else .error .outsideWindow
  | .mem addr a =>
    match windowOffset p addr with
    | some off => .ok (decodeAccess p off a)
    | none => .error .outsideWindow
  | .unit op =>
    if op.format = .unit then (if op.wf p then .ok op else .error .illFormed) else .error .notAUnitOperation

/-- The request that asks for an operation, from the encoding tables (R91, R94). -/
def encode (p : Config.Params) : Instr → Request
  | .readSector => .cmd p.opc.readSector
  | .writeSector => .cmd p.opc.writeSector
  | .seekTrack => .cmd p.opc.seekTrack
  | .readStatus => .cmd p.opc.readStatus
  | .formatTrack => .cmd p.opc.formatTrack
  | .readId => .cmd p.opc.readId
  | .recalibrate => .cmd p.opc.recalibrate
  | .senseInterrupt => .cmd p.opc.senseInterrupt
  | .invalid v => .cmd v
  | .rdCommand => .reg p.regOffset.command .rd
  | .wrCommand v => .reg p.regOffset.command (.wr v)
  | .rdStatus => .reg p.regOffset.status .rd
  | .wrStatus v => .reg p.regOffset.status (.wr v)
  | .rdData => .reg p.regOffset.data .rd
  | .wrData v => .reg p.regOffset.data (.wr v)
  | .rdDriveSelect => .reg p.regOffset.driveSelect .rd
  | .wrDriveSelect v => .reg p.regOffset.driveSelect (.wr v)
  | .rdTrack => .reg p.regOffset.track .rd
  | .wrTrack v => .reg p.regOffset.track (.wr v)
  | .rdSector => .reg p.regOffset.sector .rd
  | .wrSector v => .reg p.regOffset.sector (.wr v)
  | .rdDmaAddrLow => .reg p.regOffset.dmaAddrLow .rd
  | .wrDmaAddrLow v => .reg p.regOffset.dmaAddrLow (.wr v)
  | .rdDmaAddrHigh => .reg p.regOffset.dmaAddrHigh .rd
  | .wrDmaAddrHigh v => .reg p.regOffset.dmaAddrHigh (.wr v)
  | .rdDmaCount => .reg p.regOffset.dmaCount .rd
  | .wrDmaCount v => .reg p.regOffset.dmaCount (.wr v)
  | .rdControl => .reg p.regOffset.control .rd
  | .wrControl v => .reg p.regOffset.control (.wr v)
  | .rdPad k => .reg ((padOffsets p).getD k p.window) .rd
  | .wrPad k v => .reg ((padOffsets p).getD k p.window) (.wr v)
  | .crcCompute data => .unit (.crcCompute data)
  | .crcVerify sector => .unit (.crcVerify sector)
  | .satP2L track sector => .unit (.satP2L track sector)
  | .satL2P index => .unit (.satL2P index)
  | .secRead b track sector => .unit (.secRead b track sector)
  | .secWrite b track sector data => .unit (.secWrite b track sector data)
  | .secReadM b track sector count => .unit (.secReadM b track sector count)
  | .secWriteM b track sector data => .unit (.secWriteM b track sector data)
  | .secFmtTrk b track => .unit (.secFmtTrk b track)
  | .secFmtDsk b => .unit (.secFmtDsk b)
  | .arbRead d track sector => .unit (.arbRead d track sector)
  | .arbWrite d track sector data => .unit (.arbWrite d track sector data)
  | .arbFmtTrk d track => .unit (.arbFmtTrk d track)
  | .hostMount d image => .unit (.hostMount d image)
  | .hostUnmount d io => .unit (.hostUnmount d io)
  | .hostPersist d io => .unit (.hostPersist d io)
  | .hostSaveAll ioA ioB => .unit (.hostSaveAll ioA ioB)
  | .hostUnmountAll ioA ioB => .unit (.hostUnmountAll ioA ioB)
  | .hostCreate path is720KB io => .unit (.hostCreate path is720KB io)
  | .hostImage d op => .unit (.hostImage d op)
  | .fire => .unit .fire
  | .reset => .unit .reset

/-- The request the bits of an opcode-table row stand for: eight bits are a command byte (format CMD); four bits are a window
offset of format REG, whose direction is no bit of the row, taken as a read (log 5). No row has more than eight bits. -/
def wordRequest (nbits w : Nat) : Option Request :=
  if 8 ≤ nbits ∧ w < 256 then some (.cmd (BitVec.ofNat 8 w))
  else if nbits = 4 ∧ w < 16 then some (.reg w .rd)
  else none

/-- The operation the decoder reads from the bits of an opcode-table row, at the default parameters the table prints (R110). -/
def decodeTableWord (nbits w : Nat) : Option Instr :=
  match wordRequest nbits w with
  | some r =>
    match decode Config.Params.default r with
    | .ok i => some i
    | .error _ => none
  | none => none

end Sys2Proof
end

