-- ==== Sys2Proof/Machine/State.lean ====
section
/-! DEFINITION. The state of the FDC block (R20), held as plain data, the reasons a step can stop, and the state after reset. -/

namespace Sys2Proof.Machine

/-- R32: the three stored values of the state machine. -/
inductive Phase where
  | idle | awaitingData | seekPending
deriving DecidableEq, Repr

/-- R104: the six completion codes; their byte values are `StatusCode.toByte` (Machine/Flags.lean). No rule
produces `abnormal` (D39; log 19). -/
inductive StatusCode where
  | ok | idNotFound | crcErr | abnormal | notReady | invalidCmd
deriving DecidableEq, Repr

/-- R38: a pending completion. `latencyMs` is a label (R310). -/
structure Pending where
  code      : StatusCode
  latencyMs : Nat
deriving DecidableEq, Repr

/-- R42: a mounted disk. -/
structure Slot where
  img   : ByteSeq
  dirty : Bool
deriving DecidableEq, Repr

/-- R11: the failures of a unit operation. -/
inductive UnitFailure where
  | outOfBounds | notReady
deriving DecidableEq, Repr

/-- What a step answers at its interface (the MODEL's own; log 3). -/
inductive Result where
  /-- Nothing has been answered. -/
  | none
  /-- The access or operation is done and returns no value (a bus write, `Ok`). -/
  | done
  /-- The byte a bus read returns (R190). -/
  | byte (v : Byte)
  /-- The value of CRC16.COMPUTE (R123). -/
  | crc (c : Word16)
  /-- A truth value: CRC16.VERIFY (R125), the success of HOST.MOUNT (R171). -/
  | bool (b : Bool)
  /-- A logical sector index (R141). -/
  | index (l : Nat)
  /-- A physical address: track and sector (R142). -/
  | physical (track sector : Nat)
  /-- Bytes read (R156, R158, R164, R181). -/
  | bytes (data : List Byte)
  /-- The updated buffer of a buffer-level write (R157, R159, R160, R161). -/
  | buffer (b : ByteSeq)
  /-- `OutOfBounds` or `NotReady` (R11). -/
  | failed (f : UnitFailure)
  /-- Images handed to the backing store, and the operation's truth value (R172, R173, R174). -/
  | persisted (out : List (Drive × ByteSeq)) (ok : Bool)
  /-- Images handed to the backing store by HOST.UNMOUNTALL, which returns no value (R175). -/
  | unmountedAll (out : List (Drive × ByteSeq))
  /-- The new backing image of HOST.CREATE, and whether the store took it (R176). -/
  | created (path : String) (image : ByteSeq) (ok : Bool)
deriving DecidableEq, Repr

/-- R20: the state of the block, and the model's own `cfg`, `inbox`, `result`, `freeIdx`. -/
structure State where
  /-- R22. -/
  command     : Byte
  /-- R23, the stored byte `st`. -/
  status      : Byte
  /-- R24. -/
  data        : Byte
  /-- R25. -/
  driveSelect : Byte
  /-- R26. -/
  track       : Byte
  /-- R27. -/
  sector      : Byte
  /-- R28. -/
  dmaAddrLow  : Byte
  /-- R28. -/
  dmaAddrHigh : Byte
  /-- R29. -/
  dmaCount    : Byte
  /-- R30. -/
  control     : Byte
  /-- R31, the pass-through bytes, `FDC_WINDOW - 10` of them (kept so by every step: `Inv`, Safety.lean). -/
  pad         : List Byte
  /-- R32. -/
  phase       : Phase
  /-- R33, 512 bytes (kept so by every step: `Inv`, Safety.lean). -/
  buf         : List Byte
  /-- R34, 0 to 512. -/
  xferIdx     : Nat
  /-- R35, 1 to 512. -/
  xferLimit   : Nat
  /-- R36. -/
  rdActive    : Bool
  /-- R37. -/
  wrDrive     : Byte
  /-- R37. -/
  wrTrack     : Byte
  /-- R37. -/
  wrSector    : Byte
  /-- R38. -/
  pend        : Option Pending
  /-- R39. -/
  irqPending  : Bool
  /-- R40. -/
  seekDone    : Bool
  /-- R41. -/
  crcErr      : Bool
  /-- R42, `slot[A]`. -/
  slotA       : Option Slot
  /-- R42, `slot[B]`. -/
  slotB       : Option Slot
  /-- The MODEL's own: the parameters of R7; no operation writes them (log 1). -/
  cfg         : Config.Params
  /-- The MODEL's own: the requests the agents make next, the first one first (log 3). -/
  inbox       : List Request
  /-- The MODEL's own: what the last step answered (log 3). -/
  result      : Result
  /-- The MODEL's own: how many free values have been used (log 11). -/
  freeIdx     : Nat
deriving DecidableEq, Repr

/-- Why the machine stops with a fault. -/
inductive Fault where
  /-- HOST.IMAGE names an offset at or beyond the end of the image (R181: any bytes of `Img(d)`); there is no such byte.
  Raised by HOST.IMAGE only. Safe: nothing is claimed of such a request (log 14). -/
  | imageOffset
  /-- A DATA access would move a buffer byte with index 512 or more; the buffer has indices 0 to 511 (R60 (2)). Raised by
  RD DATA and WR DATA, never in a state that meets R44. Safe (log 16). -/
  | bufferIndex
  /-- RD or WR of a pass-through byte with index `FDC_WINDOW - 10` or more; there is no such byte (R31). Raised by RD PAD and WR
  PAD, never for a well-formed operation in a state that meets `Inv`, so by no step on an access in the window. Safe (log 16). -/
  | padIndex
deriving DecidableEq, Repr

/-- Why the machine has no step for a request. -/
inductive Refusal where
  /-- No meaning yet for the instruction of this mnemonic; no arm of `exec` answers it. Safe. -/
  | notModelled (mnemonic : String)
  /-- HOST.MOUNT into an occupied slot: "the model gives that case no step" (R171, D32, U8). Safe (log 9). -/
  | mountOccupied
  /-- HOST.IMAGE on a drive with no mounted image, against its precondition (R178, R181). Safe (log 9). -/
  | imageNotMounted
  /-- FIRE with no pending completion, against its precondition (R240). Safe (log 9). -/
  | fireNotPending
  /-- A sector or multi-sector payload of a length the operand type excludes (R125, R157, R159, U21). Safe (log 8). -/
  | payloadLength
  /-- A request the decoder rejects, by name; never for an access outside the window, which is a step (R202). Safe (log 4). -/
  | undecodable (e : DecodeError)
deriving DecidableEq, Repr

/-- The answer of one operation or step. -/
abbrev Answer := Host.Outcome State Fault Refusal

/-- The state after reset at power-on: R49, R290, R293; both slots empty (R291). -/
def State.reset : State where
  command := 0x00#8
  status := 0x00#8
  data := 0x00#8
  driveSelect := 0x00#8
  track := 0x00#8
  sector := 0x00#8
  dmaAddrLow := 0x00#8
  dmaAddrHigh := 0x00#8
  dmaCount := 0x00#8
  control := 0x00#8
  pad := List.replicate Config.Params.default.padBytes 0x00#8
  phase := .idle
  buf := List.replicate 512 0x00#8
  xferIdx := 0
  xferLimit := 512
  rdActive := false
  wrDrive := 0x00#8
  wrTrack := 0x00#8
  wrSector := 0x00#8
  pend := none
  irqPending := false
  seekDone := false
  crcErr := false
  slotA := none
  slotB := none
  cfg := Config.Params.default
  inbox := []
  result := .none
  freeIdx := 0

end Sys2Proof.Machine
end

