-- ==== Sys2Proof/Machine/Access.lean ====
section
/-! DEFINITION. The accessors: a register by name (R9), a drive slot by drive (R12, R42). -/

namespace Sys2Proof.Machine

/-- `R[NAME]` of R9. -/
def State.reg (s : State) : RegName → Byte
  | .command => s.command
  | .status => s.status
  | .data => s.data
  | .driveSelect => s.driveSelect
  | .track => s.track
  | .sector => s.sector
  | .dmaAddrLow => s.dmaAddrLow
  | .dmaAddrHigh => s.dmaAddrHigh
  | .dmaCount => s.dmaCount
  | .control => s.control

/-- `slot[d]` of R42. -/
def State.slot (s : State) : Drive → Option Slot
  | .A => s.slotA
  | .B => s.slotB

/-- `slot[d] <- x`. -/
def State.setSlot (s : State) (d : Drive) (x : Option Slot) : State :=
  match d with
  | .A => { s with slotA := x }
  | .B => { s with slotB := x }

/-- `slot[d]` for a drive operand, which may be `none` (R12): `Ready(d)` is that this is a slot (R162). -/
def State.slotOf (s : State) (d : Option Drive) : Option Slot := d.bind s.slot

end Sys2Proof.Machine
end

