-- ==== Sys2Proof/Machine/Flags.lean ====
section
/-! DEFINITION. The status byte in its two uses (flags while a command is in flight, a code afterwards), the drive status byte,
the interrupt result byte and the interrupt output. -/

namespace Sys2Proof.Machine

/-- R104: the value of each completion code. -/
def StatusCode.toByte : StatusCode → Byte
  | .ok => 0x00#8
  | .idNotFound => 0x10#8
  | .crcErr => 0x20#8
  | .abnormal => 0x40#8
  | .notReady => 0x50#8
  | .invalidCmd => 0x80#8

/-- The byte with one bit set (R8: bit 0 has value 1). -/
def bitMask (i : Fin 8) : Byte := 1#8 <<< i.val

/-- The byte with one bit set if a condition holds, else 0. -/
def bitIf (c : Bool) (i : Fin 8) : Byte := if c then bitMask i else 0#8

/-- `st` after issue: BUSY set, every other bit clear (R222; 0x01 at the default positions). -/
def busyByte (p : Config.Params) : Byte := bitMask p.stbit.busy

/-- `st` in the write data phase: BUSY and DATA_REQUEST, and DATA_DIRECTION if `AWAIT_DIR` is 1 (R226; 0x07 at the defaults). -/
def awaitByte (p : Config.Params) : Byte :=
  bitMask p.stbit.busy ||| bitMask p.stbit.dataRequest ||| bitIf p.awaitDir p.stbit.dataDirection

/-- BUSY as stored in `st` (R193, R222: the bit the COMMAND write tests). -/
def isBusy (s : State) : Bool := s.status.getLsbD s.cfg.stbit.busy.val

/-- R103: the interrupt result byte. -/
def irqByte (b : Bool) : Byte := if b then 0x01#8 else 0x00#8

/-- R270: the output `IRQ_PENDING`, a level equal to `irq_pending` (log 20). -/
def irqLine (s : State) : Bool := s.irqPending

end Sys2Proof.Machine
end

