-- ==== Sys2Proof/Machine/Operands.lean ====
section
/-! DEFINITION. The operand forms: the drive-select byte, the read-transfer length, the sector-address translator (R141, R142) and
the slot-level address resolution (R163). -/

namespace Sys2Proof.Machine

/-- R98: `DriveOf(v)`, by `DRIVE_CODE` (R7). -/
def driveOf (p : Config.Params) (v : Byte) : Option Drive := (p.driveCode.find? (fun e => e.1 == v)).map (·.2)

/-- R204: `Limit(c)`. -/
def limit (p : Config.Params) (c : Byte) : Nat := if c = 0#8 then p.dmaLimitZero else c.toNat

/-- R7 `SIDE1_OFFSET`: its three admitted values (R65). -/
def side1Offset : Config.Side1 → Nat
  | .aliased => 0
  | .continued => 184320
  | .upperHalf => 368640

/-- R141: `P2L(track, sector)`. -/
def p2l (track sector : Nat) : Except UnitFailure Nat :=
  if track > 39 ∨ sector < 1 ∨ sector > 9 then .error .outOfBounds else .ok (track * 9 + (sector - 1))

/-- R142: `L2P(l)`. -/
def l2p (l : Nat) : Except UnitFailure (Nat × Nat) :=
  if l > 359 then .error .outOfBounds else .ok (l / 9, l % 9 + 1)

/-- R144: `Offset(l)`. -/
def sectorOffset (l : Nat) : Nat := l * 512

/-- R12: `two_sided(d)`, of the image in the slot. -/
def twoSided (img : ByteSeq) : Bool := decide (img.len = Config.img720K)

/-- The address part of R163, on a mounted image: the remap of tracks 40 and above of a 720KB image, then the translator. -/
def locateIn (p : Config.Params) (img : ByteSeq) (track sector : Nat) : Except UnitFailure Nat :=
  if twoSided img ∧ track ≥ 40 then
    (p2l (track - 40) sector).map (fun l => side1Offset p.side1 + sectorOffset l)
  else (p2l track sector).map sectorOffset

/-- R163: `Locate(d, track, sector)`; readiness is tested before the address. -/
def locate (s : State) (d : Option Drive) (track sector : Nat) : Except UnitFailure Nat :=
  match s.slotOf d with
  | none => .error .notReady
  | some sl => locateIn s.cfg sl.img track sector

/-- R231: `DriveStatus()`, the drive status byte (R102). DRIVE_FAULT is never set. -/
def driveStatus (s : State) : Byte :=
  bitIf (decide (s.track = 0#8)) s.cfg.stbit.track0
    ||| bitIf s.seekDone s.cfg.stbit.seekComplete
    ||| bitIf s.crcErr s.cfg.stbit.crcError
    ||| bitIf (s.slotOf (driveOf s.cfg s.driveSelect)).isSome s.cfg.stbit.driveReady

end Sys2Proof.Machine
end

