-- ==== Sys2Proof/Machine/Arbiter.lean ====
section
/-! DEFINITION. The sector read/write arbiter: the buffer level (R156 to R161) and the slot level (R162 to R166). -/

namespace Sys2Proof.Machine

/-- R156: `SecRead(b, track, sector)`. -/
def secRead (b : ByteSeq) (track sector : Nat) : Except UnitFailure (List Byte) :=
  match p2l track sector with
  | .error f => .error f
  | .ok l => if sectorOffset l + 512 > b.len then .error .outOfBounds else .ok (b.slice (sectorOffset l) 512)

/-- R157: `SecWrite(b, track, sector, data)`: the updated buffer. -/
def secWrite (b : ByteSeq) (track sector : Nat) (data : List Byte) : Except UnitFailure ByteSeq :=
  match p2l track sector with
  | .error f => .error f
  | .ok l => if sectorOffset l + 512 > b.len then .error .outOfBounds else .ok (b.write (sectorOffset l) data)

/-- The check of a run of `count` sectors from a start address on, and its first logical index (R158, R159). -/
def secRun (b : ByteSeq) (track sector count : Nat) : Except UnitFailure Nat :=
  match p2l track sector with
  | .error f => .error f
  | .ok l0 =>
    if l0 + count > Config.nSectors then .error .outOfBounds
    else if (l0 + count) * 512 > b.len then .error .outOfBounds
    else .ok l0

/-- R158: `SecReadM(b, track, sector, count)`. -/
def secReadM (b : ByteSeq) (track sector count : Nat) : Except UnitFailure (List Byte) :=
  (secRun b track sector count).map (fun l0 => b.slice (sectorOffset l0) (count * 512))

/-- R159: `SecWriteM(b, track, sector, data)`: the updated buffer; the run is `len(data) div 512` sectors. -/
def secWriteM (b : ByteSeq) (track sector : Nat) (data : List Byte) : Except UnitFailure ByteSeq :=
  (secRun b track sector (data.length / 512)).map (fun l0 => b.write (sectorOffset l0) data)

/-- R160: `SecFormatTrack(b, track)`: the updated buffer. -/
def secFormatTrack (b : ByteSeq) (track : Nat) : Except UnitFailure ByteSeq :=
  if track > 39 then .error .outOfBounds
  else if track * 9 * 512 + 9 * 512 > b.len then .error .outOfBounds
  else .ok (b.clear (track * 9 * 512) 4608)

/-- R161: `SecFormatDisk(b)`: the updated buffer. -/
def secFormatDisk (b : ByteSeq) : Except UnitFailure ByteSeq :=
  if 360 * 512 > b.len then .error .outOfBounds else .ok (b.clear 0 184320)

/-- R164: `ArbRead(d, track, sector)`. -/
def arbRead (s : State) (d : Option Drive) (track sector : Nat) : Except UnitFailure (List Byte) :=
  match s.slotOf d with
  | none => .error .notReady
  | some sl => (locateIn s.cfg sl.img track sector).map (fun off => sl.img.slice off 512)

/-- The state after the image of a mounted drive is replaced by an updated one: `dirty` is set (R167). -/
def State.storeImage (s : State) (d : Option Drive) (img : ByteSeq) : State :=
  match d with
  | none => s
  | some d => s.setSlot d (some ⟨img, true⟩)

/-- R165: `ArbWrite(d, track, sector, data)`: the state with the sector written and `dirty` set. -/
def arbWrite (s : State) (d : Option Drive) (track sector : Nat) (data : List Byte) : Except UnitFailure State :=
  match s.slotOf d with
  | none => .error .notReady
  | some sl =>
    (locateIn s.cfg sl.img track sector).map (fun off => s.storeImage d (sl.img.write off data))

/-- R166: `ArbFormatTrack(d, track)`: the nine sectors from sector 1 on. -/
def arbFormatTrack (s : State) (d : Option Drive) (track : Nat) : Except UnitFailure State :=
  match s.slotOf d with
  | none => .error .notReady
  | some sl => (locateIn s.cfg sl.img track 1).map (fun off => s.storeImage d (sl.img.clear off 4608))

end Sys2Proof.Machine
end

