-- ==== Sys2Proof/Machine/Crc.lean ====
section
/-! DEFINITION. The CRC16 unit (R120 to R128): pure functions, no state. -/

namespace Sys2Proof.Machine

/-- One step of the right-shifting register: `(c >> 1) ^ 0xA001` if bit 0 is set, else `c >> 1` (R121). -/
def crcBit (c : Word16) : Word16 := if c.getLsbD 0 then (c >>> 1) ^^^ Config.crcPoly else c >>> 1

/-- Eight steps of the register (R121, R122). -/
def crcBits8 (c : Word16) : Word16 := crcBit (crcBit (crcBit (crcBit (crcBit (crcBit (crcBit (crcBit c)))))))

/-- R121: entry `T[i]` of the table. -/
def crcTable (i : Byte) : Word16 := crcBits8 (i.setWidth 16)

/-- R122: `Step(c, b)`. -/
def crcStep (c : Word16) (b : Byte) : Word16 := (c >>> 8) ^^^ crcTable ((c ^^^ b.setWidth 16).setWidth 8)

/-- R123: `Crc16(data)`. -/
def crc16 (p : Config.Params) (data : List Byte) : Word16 := data.foldl crcStep p.crcInit ^^^ p.crcXorOut

/-- The expected CRC of a sector: byte 510 the low byte, byte 511 the high byte (R67, R106). -/
def crcField (sector : List Byte) : Word16 := sector.getD 511 0#8 ++ sector.getD 510 0#8

/-- R125: `CrcVerify(sector)`, of a 512-byte sector. -/
def crcVerify (p : Config.Params) (sector : List Byte) : Bool :=
  decide (crc16 p (sector.take Config.crcCover) = crcField sector)

end Sys2Proof.Machine
end

