-- ==== Sys2Proof/Machine/Ops.lean ====
section
/-! DEFINITION. The shared operations: answering, completion (this hardware's trap entry, R273), acceptance of a command, the body
of each command, issue, the commit of a write, and the per-slot steps of the host's media operations. -/

namespace Sys2Proof.Machine

/-- The step is done: the next state, with what it answers at its interface (log 3). -/
def answer (r : Result) (s : State) : Answer := .next { s with result := r }

/-! ## Completion: the analogue of taking an exception (R223, R273). Nothing is saved; there is no return: the block is ready for
the next command as soon as `complete` has run (R274). -/

/-- R223: `Complete(code)`. -/
def complete (code : StatusCode) (s : State) : State :=
  { s with status := code.toByte, phase := .idle, irqPending := if code = .ok then true else s.irqPending }

/-- R261: the code of a unit failure met by a command. -/
def failCode : UnitFailure → StatusCode
  | .notReady => .notReady
  | .outOfBounds => .idNotFound

/-! ## Acceptance of a COMMAND write and the commands' bodies -/

/-- R193, R222: an accepted COMMAND write stores the byte, ends any read transfer and sets BUSY. -/
def accept (v : Byte) (s : State) : State := { s with command := v, rdActive := false, status := busyByte s.cfg }

/-- R225: `ExecReadSector()`. -/
def readSectorBody (s : State) : State :=
  match arbRead s (driveOf s.cfg s.driveSelect) s.track.toNat s.sector.toNat with
  | .error f => complete (failCode f) { s with crcErr := false }
  | .ok bytes =>
    if s.cfg.crcCheckOnRead ∧ crcVerify s.cfg bytes = false then
      complete .crcErr { s with crcErr := true, buf := bytes }
    else
      complete .ok { s with crcErr := false, buf := bytes, xferIdx := 0, xferLimit := limit s.cfg s.dmaCount, rdActive := true }

/-- R226: `ExecWriteSector()`. -/
def writeSectorBody (s : State) : State :=
  { s with wrDrive := s.driveSelect, wrTrack := s.track, wrSector := s.sector, xferIdx := 0, phase := .awaitingData,
           status := awaitByte s.cfg }

/-- R227: `Commit()`. -/
def commit (s : State) : State :=
  match arbWrite s (driveOf s.cfg s.wrDrive) s.wrTrack.toNat s.wrSector.toNat s.buf with
  | .error f => complete (failCode f) s
  | .ok s' => complete .ok s'

/-- R228: `ExecSeek()`. -/
def seekBody (s : State) : State :=
  { s with seekDone := false, pend := some ⟨.ok, Config.seekLatencyMs⟩, phase := .seekPending }

/-- R230: `ExecReadStatus()`. -/
def readStatusBody (s : State) : State := complete .ok { s with data := driveStatus s }

/-- R232: `ExecFormatTrack()`. -/
def formatTrackBody (s : State) : State :=
  match arbFormatTrack s (driveOf s.cfg s.driveSelect) s.track.toNat with
  | .error f => complete (failCode f) s
  | .ok s' => complete .ok s'

/-- R233: `ExecReadId()`. -/
def readIdBody (s : State) : State :=
  match locate s (driveOf s.cfg s.driveSelect) s.track.toNat s.sector.toNat with
  | .error f => complete (failCode f) s
  | .ok _ => complete .ok s

/-- R234: `ExecRecalibrate()`. -/
def recalibrateBody (s : State) : State :=
  { s with track := 0x00#8, seekDone := false, pend := some ⟨.ok, Config.recalLatencyMs⟩, phase := .seekPending }

/-- R235: `ExecSenseInterrupt()`; it does not use `Complete`. -/
def senseInterruptBody (s : State) : State :=
  { s with data := irqByte s.irqPending, irqPending := false, status := 0x00#8, phase := .idle }

/-- R238: an opcode byte other than the eight. -/
def invalidBody (s : State) : State := complete .invalidCmd s

/-- R222: `R[COMMAND] <- v` and `Issue(v)`. -/
def issue (v : Byte) (s : State) : State :=
  if v = s.cfg.opc.readSector then readSectorBody (accept v s)
  else if v = s.cfg.opc.writeSector then writeSectorBody (accept v s)
  else if v = s.cfg.opc.seekTrack then seekBody (accept v s)
  else if v = s.cfg.opc.readStatus then readStatusBody (accept v s)
  else if v = s.cfg.opc.formatTrack then formatTrackBody (accept v s)
  else if v = s.cfg.opc.readId then readIdBody (accept v s)
  else if v = s.cfg.opc.recalibrate then recalibrateBody (accept v s)
  else if v = s.cfg.opc.senseInterrupt then senseInterruptBody (accept v s)
  else invalidBody (accept v s)

/-- A COMMAND write of an opcode byte whose command is known: dropped whole while BUSY (R193), else accepted and run. -/
def commandWrite (v : Byte) (body : State → State) (s : State) : Answer :=
  if isBusy s then answer .done s else answer .done (body (accept v s))

/-! ## Buffer-level operations on a buffer operand (R155, R169, R181) -/

/-- The buffer an operand names; a slot with no image has none (R162; log 13). -/
def bufferOf (s : State) : BufRef → Except UnitFailure ByteSeq
  | .handed b => .ok b
  | .slot d =>
    match s.slotOf d with
    | none => .error .notReady
    | some sl => .ok sl.img

/-- The answer of a reading unit operation. -/
def answerRead (s : State) (r : Except UnitFailure (List Byte)) : Answer :=
  match r with
  | .error f => answer (.failed f) s
  | .ok bytes => answer (.bytes bytes) s

/-- The answer of a writing buffer-level operation: a handed buffer is handed back updated; the image of a slot is replaced and
its `dirty` set (R167, R169). On failure nothing changes (R263). -/
def answerWrite (s : State) (b : BufRef) (r : Except UnitFailure ByteSeq) : Answer :=
  match r, b with
  | .error f, _ => answer (.failed f) s
  | .ok b', .handed _ => answer (.buffer b') s
  | .ok b', .slot d => answer .done (s.storeImage d b')

/-- The answer of a writing slot-level operation. On failure nothing changes (R263). -/
def answerSlotWrite (s : State) (r : Except UnitFailure State) : Answer :=
  match r with
  | .error f => answer (.failed f) s
  | .ok s' => answer .done s'

/-! ## The per-slot steps of the host's media operations -/

/-- What a per-slot host step does: the state after it, the images the backing store took, and whether it succeeded. -/
structure HostEffect where
  st  : State
  out : List (Drive × ByteSeq)
  ok  : Bool

/-- R173: HOST.PERSIST on one slot. A persist whose I/O fails is no persist: `dirty` stays (R167; log 10). An empty slot has
nothing to persist. -/
def persistSlot (d : Drive) (io : IoOutcome) (s : State) : HostEffect :=
  match s.slot d with
  | none => ⟨s, [], true⟩
  | some sl =>
    if sl.dirty then
      match io with
      | .ok => ⟨s.setSlot d (some ⟨sl.img, false⟩), [(d, sl.img)], true⟩
      | .error => ⟨s, [], false⟩
    else ⟨s, [], true⟩

/-- R172: HOST.UNMOUNT on one slot. If the persist's I/O fails, the slot is either unchanged or `none`, which is open (U9): a
free value decides (log 10, log 11). An empty slot is skipped (R175). -/
def unmountSlot (d : Drive) (io : IoOutcome) (s : State) : HostEffect :=
  match s.slot d with
  | none => ⟨s, [], true⟩
  | some sl =>
    if sl.dirty then
      match io with
      | .ok => ⟨s.setSlot d none, [(d, sl.img)], true⟩
      | .error =>
        ⟨{ s.setSlot d (if Config.freeBool s.freeIdx then some sl else none) with freeIdx := s.freeIdx + 1 }, [], false⟩
    else ⟨s.setSlot d none, [], true⟩

end Sys2Proof.Machine
end

