-- ==== Sys2Proof/Machine/Commands.lean ====
section
/-! DEFINITION. Format CMD: the eight commands and INVALID (44_commands.md), each the write of its byte to COMMAND (log 6): dropped
while BUSY (R193), else accepted and run inside the same step (R222). -/

namespace Sys2Proof.Machine

/-- R225: READ_SECTOR, byte `OPC[READ_SECTOR]` written to COMMAND (R193, R222). -/
def execReadSector (s : State) : Answer := commandWrite s.cfg.opc.readSector readSectorBody s

/-- R226: WRITE_SECTOR, byte `OPC[WRITE_SECTOR]` written to COMMAND; its 512 bytes and the commit are DATA writes (R197, R227). -/
def execWriteSector (s : State) : Answer := commandWrite s.cfg.opc.writeSector writeSectorBody s

/-- R228: SEEK_TRACK, byte `OPC[SEEK_TRACK]` written to COMMAND; it completes in a later FIRE (R240). -/
def execSeekTrack (s : State) : Answer := commandWrite s.cfg.opc.seekTrack seekBody s

/-- R230: READ_STATUS, byte `OPC[READ_STATUS]` written to COMMAND. -/
def execReadStatus (s : State) : Answer := commandWrite s.cfg.opc.readStatus readStatusBody s

/-- R232: FORMAT_TRACK, byte `OPC[FORMAT_TRACK]` written to COMMAND. -/
def execFormatTrack (s : State) : Answer := commandWrite s.cfg.opc.formatTrack formatTrackBody s

/-- R233: READ_ID, byte `OPC[READ_ID]` written to COMMAND. -/
def execReadId (s : State) : Answer := commandWrite s.cfg.opc.readId readIdBody s

/-- R234: RECALIBRATE, byte `OPC[RECALIBRATE]` written to COMMAND; it completes in a later FIRE (R240). -/
def execRecalibrate (s : State) : Answer := commandWrite s.cfg.opc.recalibrate recalibrateBody s

/-- R235: SENSE_INTERRUPT, byte `OPC[SENSE_INTERRUPT]` written to COMMAND. -/
def execSenseInterrupt (s : State) : Answer := commandWrite s.cfg.opc.senseInterrupt senseInterruptBody s

/-- R238: INVALID, an opcode byte other than the eight written to COMMAND. -/
def execInvalid (v : Byte) (s : State) : Answer := commandWrite v invalidBody s

end Sys2Proof.Machine
end

