-- ==== Sys2Proof/Machine/HostMedia.lean ====
section
/-! DEFINITION. Format UNIT: the host's media operations (R170 to R181). -/

namespace Sys2Proof.Machine

/-- R171: HOST.MOUNT. A bad drive id, a missing file or a wrong size fails and leaves the slot untouched; an occupied slot has no
step (D32). The content is not checked (R177). -/
def execHostMount (d : Option Drive) (image : Option ByteSeq) (s : State) : Answer :=
  match d, image with
  | none, _ => answer (.bool false) s
  | some _, none => answer (.bool false) s
  | some d, some img =>
    if img.len ≠ Config.img360K ∧ img.len ≠ Config.img720K then answer (.bool false) s
    else
      match s.slot d with
      | some _ => .refused .mountOccupied
      | none => answer (.bool true) (s.setSlot d (some ⟨img, false⟩))

/-- R172: HOST.UNMOUNT; it fails if nothing is mounted. -/
def execHostUnmount (d : Option Drive) (io : IoOutcome) (s : State) : Answer :=
  match d with
  | none => answer (.persisted [] false) s
  | some d =>
    match s.slot d with
    | none => answer (.persisted [] false) s
    | some _ => answer (.persisted (unmountSlot d io s).out (unmountSlot d io s).ok) (unmountSlot d io s).st

/-- R173: HOST.PERSIST. On a drive with nothing mounted (R178 gives it no precondition) nothing changes, and the truth value it
returns is not stated: a free value (log 12). -/
def execHostPersist (d : Option Drive) (io : IoOutcome) (s : State) : Answer :=
  match s.slotOf d, d with
  | some _, some d => answer (.persisted (persistSlot d io s).out (persistSlot d io s).ok) (persistSlot d io s).st
  | _, _ => answer (.persisted [] (Config.freeBool s.freeIdx)) { s with freeIdx := s.freeIdx + 1 }

/-- R174: HOST.SAVEALL: HOST.PERSIST on each mounted slot; a failed first one does not stop the second (log 10).
The order of the slots is not stated. DESIGN CHOICE: A before B, seen only in the order of the images handed over (log 22). -/
def execHostSaveAll (ioA ioB : IoOutcome) (s : State) : Answer :=
  answer
    (.persisted ((persistSlot .A ioA s).out ++ (persistSlot .B ioB (persistSlot .A ioA s).st).out)
      ((persistSlot .A ioA s).ok && (persistSlot .B ioB (persistSlot .A ioA s).st).ok))
    (persistSlot .B ioB (persistSlot .A ioA s).st).st

/-- R175: HOST.UNMOUNTALL: HOST.UNMOUNT on each mounted slot; an empty slot is skipped. The order of the slots is
not stated. DESIGN CHOICE: A before B, seen only in the order of the images handed over and of the free values (log 22). -/
def execHostUnmountAll (ioA ioB : IoOutcome) (s : State) : Answer :=
  answer (.unmountedAll ((unmountSlot .A ioA s).out ++ (unmountSlot .B ioB (unmountSlot .A ioA s).st).out))
    (unmountSlot .B ioB (unmountSlot .A ioA s).st).st

/-- R176: HOST.CREATE: a zero-filled backing image (its zero-format changes nothing); no slot changes. -/
def execHostCreate (path : String) (is720KB : Bool) (io : IoOutcome) (s : State) : Answer :=
  answer (.created path (ByteSeq.zeros (if is720KB then Config.img720K else Config.img360K)) (decide (io = .ok))) s

/-- R181: HOST.IMAGE: read any bytes of `Img(d)`, or replace any bytes of it, which sets `dirty` (R167). The operand forms are the
model's (log 14). -/
def execHostImage (d : Option Drive) (op : ImageOp) (s : State) : Answer :=
  match s.slotOf d with
  | none => .refused .imageNotMounted
  | some sl =>
    match op with
    | .readBytes offsets =>
      if offsets.all (fun o => decide (o < sl.img.len)) then answer (.bytes (offsets.map sl.img.read)) s
      else .fault .imageOffset
    | .replaceBytes cells =>
      if cells.all (fun c => decide (c.1 < sl.img.len)) then answer .done (s.storeImage d (sl.img.replace cells))
      else .fault .imageOffset

end Sys2Proof.Machine
end

