-- ==== Sys2Proof/Machine/Registers.lean ====
section
/-! DEFINITION. Format REG: the bus accesses to the register window (43_register_access.md). -/

namespace Sys2Proof.Machine

/-- R192: RD COMMAND. -/
def execRdCommand (s : State) : Answer := answer (.byte s.command) s

/-- R193: WR COMMAND: dropped while BUSY, else stored and issued inside this step. -/
def execWrCommand (v : Byte) (s : State) : Answer := if isBusy s then answer .done s else answer .done (issue v s)

/-- R194: RD STATUS, no side effect. -/
def execRdStatus (s : State) : Answer := answer (.byte s.status) s

/-- R195: WR STATUS: no effect, the byte is stored nowhere. -/
def execWrStatus (_ : Byte) (s : State) : Answer := answer .done s

/-- R196: RD DATA: the next buffer byte while a read transfer is enabled, else `R[DATA]`. -/
def execRdData (s : State) : Answer :=
  if s.rdActive then
    match s.buf[s.xferIdx]? with
    | none => .fault .bufferIndex
    | some v =>
      answer (.byte v)
        { s with data := v, xferIdx := s.xferIdx + 1, rdActive := if s.xferIdx + 1 = s.xferLimit then false else true }
  else answer (.byte s.data) s

/-- The byte step of the write data phase (R197): the byte goes to `R[DATA]` and to the buffer, and the index advances. -/
def feedByte (v : Byte) (s : State) : State :=
  { s with data := v, buf := s.buf.set s.xferIdx v, xferIdx := s.xferIdx + 1 }

/-- R197: WR DATA: stores the byte; in the write data phase it also feeds the buffer, and the 512th byte commits. -/
def execWrData (v : Byte) (s : State) : Answer :=
  if s.phase = .awaitingData then
    if s.xferIdx < Config.writeXferBytes then
      if s.xferIdx + 1 = Config.writeXferBytes then answer .done (commit (feedByte v s)) else answer .done (feedByte v s)
    else .fault .bufferIndex
  else answer .done { s with data := v }

/-- R198: RD DRIVE_SELECT. -/
def execRdDriveSelect (s : State) : Answer := answer (.byte s.driveSelect) s

/-- R199: WR DRIVE_SELECT. -/
def execWrDriveSelect (v : Byte) (s : State) : Answer := answer .done { s with driveSelect := v }

/-- R198: RD TRACK. -/
def execRdTrack (s : State) : Answer := answer (.byte s.track) s

/-- R199: WR TRACK. -/
def execWrTrack (v : Byte) (s : State) : Answer := answer .done { s with track := v }

/-- R198: RD SECTOR. -/
def execRdSector (s : State) : Answer := answer (.byte s.sector) s

/-- R199: WR SECTOR. -/
def execWrSector (v : Byte) (s : State) : Answer := answer .done { s with sector := v }

/-- R198: RD DMA_ADDR_LOW. -/
def execRdDmaAddrLow (s : State) : Answer := answer (.byte s.dmaAddrLow) s

/-- R199: WR DMA_ADDR_LOW. -/
def execWrDmaAddrLow (v : Byte) (s : State) : Answer := answer .done { s with dmaAddrLow := v }

/-- R198: RD DMA_ADDR_HIGH. -/
def execRdDmaAddrHigh (s : State) : Answer := answer (.byte s.dmaAddrHigh) s

/-- R199: WR DMA_ADDR_HIGH. -/
def execWrDmaAddrHigh (v : Byte) (s : State) : Answer := answer .done { s with dmaAddrHigh := v }

/-- R198: RD DMA_COUNT. -/
def execRdDmaCount (s : State) : Answer := answer (.byte s.dmaCount) s

/-- R199: WR DMA_COUNT. -/
def execWrDmaCount (v : Byte) (s : State) : Answer := answer .done { s with dmaCount := v }

/-- R198: RD CONTROL. -/
def execRdControl (s : State) : Answer := answer (.byte s.control) s

/-- R199: WR CONTROL. -/
def execWrControl (v : Byte) (s : State) : Answer := answer .done { s with control := v }

/-- R200: RD of a pass-through byte. -/
def execRdPad (k : Nat) (s : State) : Answer :=
  match s.pad[k]? with
  | none => .fault .padIndex
  | some v => answer (.byte v) s

/-- R201: WR of a pass-through byte. -/
def execWrPad (k : Nat) (v : Byte) (s : State) : Answer :=
  if k < s.pad.length then answer .done { s with pad := s.pad.set k v } else .fault .padIndex

end Sys2Proof.Machine
end

