-- ==== Sys2Proof/Machine/System.lean ====
section
/-! DEFINITION. Format UNIT: the step of the deferred-completion agent (R240) and the step of the reset agent (R290). -/

namespace Sys2Proof.Machine

/-- R240: FIRE, enabled only while a completion is pending. -/
def execFire (s : State) : Answer :=
  match s.phase, s.pend with
  | .seekPending, some p => answer .done (complete p.code { s with seekDone := true, pend := none })
  | _, _ => .refused .fireNotPending

/-- R290: `Reset()`: everything but the slots (and the model's own `cfg`, `inbox` and `freeIdx`). -/
def execReset (s : State) : Answer :=
  answer .done
    { s with
      command := 0x00#8, status := 0x00#8, data := 0x00#8, driveSelect := 0x00#8, track := 0x00#8, sector := 0x00#8,
      dmaAddrLow := 0x00#8, dmaAddrHigh := 0x00#8, dmaCount := 0x00#8, control := 0x00#8,
      pad := List.replicate s.cfg.padBytes 0x00#8, phase := .idle, buf := List.replicate 512 0x00#8,
      xferIdx := 0, xferLimit := 512, rdActive := false, wrDrive := 0x00#8, wrTrack := 0x00#8, wrSector := 0x00#8,
      pend := none, irqPending := false, seekDone := false, crcErr := false }

end Sys2Proof.Machine
end

