-- ==== Sys2Proof/Machine/Units.lean ====
section
/-! DEFINITION. Format UNIT: the CRC unit, the translator and the arbiter, invoked on their internal interfaces. -/

namespace Sys2Proof.Machine

/-- R123: CRC16.COMPUTE; total, no flag, no state. -/
def execCrcCompute (data : List Byte) (s : State) : Answer := answer (.crc (crc16 s.cfg data)) s

/-- R125: CRC16.VERIFY; the operand is exactly 512 bytes (log 8). -/
def execCrcVerify (sector : List Byte) (s : State) : Answer :=
  if sector.length = Config.sectorBytes then answer (.bool (crcVerify s.cfg sector)) s else .refused .payloadLength

/-- R141: SAT.P2L. -/
def execSatP2L (track sector : Nat) (s : State) : Answer :=
  match p2l track sector with
  | .error f => answer (.failed f) s
  | .ok l => answer (.index l) s

/-- R142: SAT.L2P. -/
def execSatL2P (index : Nat) (s : State) : Answer :=
  match l2p index with
  | .error f => answer (.failed f) s
  | .ok (t, n) => answer (.physical t n) s

/-- R156: SEC.READ. -/
def execSecRead (b : BufRef) (track sector : Nat) (s : State) : Answer :=
  answerRead s ((bufferOf s b).bind (fun x => secRead x track sector))

/-- R157: SEC.WRITE; the payload is exactly 512 bytes (log 8). -/
def execSecWrite (b : BufRef) (track sector : Nat) (data : List Byte) (s : State) : Answer :=
  if data.length = Config.sectorBytes then
    answerWrite s b ((bufferOf s b).bind (fun x => secWrite x track sector data))
  else .refused .payloadLength

/-- R158: SEC.READM. -/
def execSecReadM (b : BufRef) (track sector count : Nat) (s : State) : Answer :=
  answerRead s ((bufferOf s b).bind (fun x => secReadM x track sector count))

/-- R159: SEC.WRITEM; the payload is whole sectors (log 8). -/
def execSecWriteM (b : BufRef) (track sector : Nat) (data : List Byte) (s : State) : Answer :=
  if data.length % Config.sectorBytes = 0 then
    answerWrite s b ((bufferOf s b).bind (fun x => secWriteM x track sector data))
  else .refused .payloadLength

/-- R160: SEC.FMTTRK. -/
def execSecFmtTrk (b : BufRef) (track : Nat) (s : State) : Answer :=
  answerWrite s b ((bufferOf s b).bind (fun x => secFormatTrack x track))

/-- R161: SEC.FMTDSK. -/
def execSecFmtDsk (b : BufRef) (s : State) : Answer := answerWrite s b ((bufferOf s b).bind secFormatDisk)

/-- R164: ARB.READ. -/
def execArbRead (d : Option Drive) (track sector : Nat) (s : State) : Answer := answerRead s (arbRead s d track sector)

/-- R165: ARB.WRITE; the payload is exactly 512 bytes (log 8). -/
def execArbWrite (d : Option Drive) (track sector : Nat) (data : List Byte) (s : State) : Answer :=
  if data.length = Config.sectorBytes then answerSlotWrite s (arbWrite s d track sector data) else .refused .payloadLength

/-- R166: ARB.FMTTRK. -/
def execArbFmtTrk (d : Option Drive) (track : Nat) (s : State) : Answer := answerSlotWrite s (arbFormatTrack s d track)

end Sys2Proof.Machine
end

