-- ==== Sys2Proof/Machine/Dispatch.lean ====
section
/-! DEFINITION. Dispatch: one arm per operation, each one call of its meaning. -/

namespace Sys2Proof.Machine

def exec (i : Instr) (s : State) : Host.Outcome State Fault Refusal :=
  match i with
  | .readSector => Sys2Proof.Machine.execReadSector s
  | .writeSector => Sys2Proof.Machine.execWriteSector s
  | .seekTrack => Sys2Proof.Machine.execSeekTrack s
  | .readStatus => Sys2Proof.Machine.execReadStatus s
  | .formatTrack => Sys2Proof.Machine.execFormatTrack s
  | .readId => Sys2Proof.Machine.execReadId s
  | .recalibrate => Sys2Proof.Machine.execRecalibrate s
  | .senseInterrupt => Sys2Proof.Machine.execSenseInterrupt s
  | .invalid v => Sys2Proof.Machine.execInvalid v s
  | .rdCommand => Sys2Proof.Machine.execRdCommand s
  | .wrCommand v => Sys2Proof.Machine.execWrCommand v s
  | .rdStatus => Sys2Proof.Machine.execRdStatus s
  | .wrStatus v => Sys2Proof.Machine.execWrStatus v s
  | .rdData => Sys2Proof.Machine.execRdData s
  | .wrData v => Sys2Proof.Machine.execWrData v s
  | .rdDriveSelect => Sys2Proof.Machine.execRdDriveSelect s
  | .wrDriveSelect v => Sys2Proof.Machine.execWrDriveSelect v s
  | .rdTrack => Sys2Proof.Machine.execRdTrack s
  | .wrTrack v => Sys2Proof.Machine.execWrTrack v s
  | .rdSector => Sys2Proof.Machine.execRdSector s
  | .wrSector v => Sys2Proof.Machine.execWrSector v s
  | .rdDmaAddrLow => Sys2Proof.Machine.execRdDmaAddrLow s
  | .wrDmaAddrLow v => Sys2Proof.Machine.execWrDmaAddrLow v s
  | .rdDmaAddrHigh => Sys2Proof.Machine.execRdDmaAddrHigh s
  | .wrDmaAddrHigh v => Sys2Proof.Machine.execWrDmaAddrHigh v s
  | .rdDmaCount => Sys2Proof.Machine.execRdDmaCount s
  | .wrDmaCount v => Sys2Proof.Machine.execWrDmaCount v s
  | .rdControl => Sys2Proof.Machine.execRdControl s
  | .wrControl v => Sys2Proof.Machine.execWrControl v s
  | .rdPad k => Sys2Proof.Machine.execRdPad k s
  | .wrPad k v => Sys2Proof.Machine.execWrPad k v s
  | .crcCompute data => Sys2Proof.Machine.execCrcCompute data s
  | .crcVerify sector => Sys2Proof.Machine.execCrcVerify sector s
  | .satP2L track sector => Sys2Proof.Machine.execSatP2L track sector s
  | .satL2P index => Sys2Proof.Machine.execSatL2P index s
  | .secRead b track sector => Sys2Proof.Machine.execSecRead b track sector s
  | .secWrite b track sector data => Sys2Proof.Machine.execSecWrite b track sector data s
  | .secReadM b track sector count => Sys2Proof.Machine.execSecReadM b track sector count s
  | .secWriteM b track sector data => Sys2Proof.Machine.execSecWriteM b track sector data s
  | .secFmtTrk b track => Sys2Proof.Machine.execSecFmtTrk b track s
  | .secFmtDsk b => Sys2Proof.Machine.execSecFmtDsk b s
  | .arbRead d track sector => Sys2Proof.Machine.execArbRead d track sector s
  | .arbWrite d track sector data => Sys2Proof.Machine.execArbWrite d track sector data s
  | .arbFmtTrk d track => Sys2Proof.Machine.execArbFmtTrk d track s
  | .hostMount d image => Sys2Proof.Machine.execHostMount d image s
  | .hostUnmount d io => Sys2Proof.Machine.execHostUnmount d io s
  | .hostPersist d io => Sys2Proof.Machine.execHostPersist d io s
  | .hostSaveAll ioA ioB => Sys2Proof.Machine.execHostSaveAll ioA ioB s
  | .hostUnmountAll ioA ioB => Sys2Proof.Machine.execHostUnmountAll ioA ioB s
  | .hostCreate path is720KB io => Sys2Proof.Machine.execHostCreate path is720KB io s
  | .hostImage d op => Sys2Proof.Machine.execHostImage d op s
  | .fire => Sys2Proof.Machine.execFire s
  | .reset => Sys2Proof.Machine.execReset s

end Sys2Proof.Machine
end

