-- ==== Sys2Proof/Machine/Step.lean ====
section
/-! DEFINITION. One step of the block: the first request of the inbox is decoded and run (log 3). -/

namespace Sys2Proof.Machine

/-- One step. With no request the block rests. A bus access outside the window does not reach the block and changes none of its
state (R202). A request the decoder rejects is refused by name. -/
def step (s : State) : Host.Outcome State Fault Refusal :=
  match s.inbox with
  | [] => .next s
  | r :: rest =>
    match decode s.cfg r with
    | .ok i => exec i { s with inbox := rest }
    | .error .outsideWindow => .next { s with inbox := rest, result := .none }
    | .error e => .refused (.undecodable e)

/-- The state with the instruction of an opcode-table row's bits placed as the next request (log 3, log 5). -/
def State.withFetchWord (s : State) (nbits w : Nat) : State :=
  match wordRequest nbits w with
  | some r => { s with inbox := r :: s.inbox }
  | none => s

end Sys2Proof.Machine
end

