-- ==== Sys2Proof/Safety.lean ====
section
/-! DEFINITION. The terms the claims use: the invariants of R44, reading one byte of an image, the ranges of a sector address, and
running a list of operations. -/

namespace Sys2Proof.Machine

/-- The byte values of the six completion codes (R104). -/
def isCode (b : Byte) : Prop :=
  b = 0x00#8 ∨ b = 0x10#8 ∨ b = 0x20#8 ∨ b = 0x40#8 ∨ b = 0x50#8 ∨ b = 0x80#8

/-- R42, R44 (f): a mounted image has one of the two lengths; its cells are in canonical form. -/
def Slot.wf (sl : Slot) : Bool :=
  sl.img.wf && (decide (sl.img.len = Config.img360K) || decide (sl.img.len = Config.img720K))

/-- The memory of a state is in canonical form. -/
def State.memWf (s : State) : Bool :=
  (match s.slotA with | none => true | some sl => sl.wf) && (match s.slotB with | none => true | some sl => sl.wf)

/-- The invariants of R44, with the widths of R31, R33, R34, R35 and the constraints of R7 and R101 on the parameters. The clause of
R44 (d) that `buf` holds the sector READ_SECTOR fetched speaks of the past and is no property of one state (log 18). -/
structure Inv (s : State) : Prop where
  cfgValid   : s.cfg.valid = true
  bufLength  : s.buf.length = 512
  idxLe      : s.xferIdx ≤ 512
  limitRange : 1 ≤ s.xferLimit ∧ s.xferLimit ≤ 512
  /-- R44 (a). -/
  busyIff    : isBusy s = true ↔ s.phase ≠ .idle
  /-- R44 (b). -/
  awaiting   : s.phase = .awaitingData → s.status = awaitByte s.cfg ∧ s.xferIdx < 512 ∧ s.rdActive = false
  /-- R44 (c), with the values of R38: the code 0x00, the latency 10 or 100. -/
  seeking    : s.phase = .seekPending → s.status = busyByte s.cfg ∧ s.rdActive = false
    ∧ (s.pend = some ⟨.ok, 10⟩ ∨ s.pend = some ⟨.ok, 100⟩)
  /-- R44 (c). -/
  noPending  : s.phase ≠ .seekPending → s.pend = none
  /-- R44 (d). -/
  reading    : s.rdActive = true → s.phase = .idle ∧ s.status = 0x00#8 ∧ s.xferIdx < s.xferLimit
  /-- R44 (e). -/
  idleCode   : s.phase = .idle → isCode s.status
  /-- R44 (f). -/
  slots      : s.memWf = true
  /-- R31. -/
  padLength  : s.pad.length = s.cfg.padBytes

/-- Byte `a` of the image mounted in drive `d`, where there is one: the one read of image memory the frames speak of. -/
def State.imgByte (s : State) (d : Drive) (a : Nat) : Option Byte := (s.slot d).bind (fun sl => sl.img.byte? a)

/-- Every byte of both images reads as before. -/
def SameImages (s t : State) : Prop := ∀ d a, t.imgByte d a = s.imgByte d a

/-- Every image byte but the `n` bytes from `off` on of drive `d` reads as before. -/
def SameImagesOutside (s t : State) (d : Drive) (off n : Nat) : Prop :=
  ∀ d' a, (d' ≠ d ∨ a < off ∨ off + n ≤ a) → t.imgByte d' a = s.imgByte d' a

/-- The bytes of `b'` outside the `n` bytes from `off` on are those of `b`, and the length is the same. -/
def SameBytesOutside (b b' : ByteSeq) (off n : Nat) : Prop :=
  b'.len = b.len ∧ ∀ a, (a < off ∨ off + n ≤ a) → b'.read a = b.read a

/-- The bytes of `b` from `off` on are those of `data`. -/
def HoldsAt (b : ByteSeq) (off : Nat) (data : List Byte) : Prop :=
  ∀ k v, data[k]? = some v → b.read (off + k) = v

/-- A physical address of the buffer level (R141): track 0 to 39, sector 1 to 9. -/
def InRange (track sector : Nat) : Prop := track ≤ 39 ∧ 1 ≤ sector ∧ sector ≤ 9

/-- The track numbers and sector numbers valid on an image (R163): track 0 to 39, or 0 to 79 on a 737,280-byte image. -/
def ValidOn (img : ByteSeq) (track sector : Nat) : Prop :=
  (track ≤ 39 ∨ (img.len = 737280 ∧ track ≤ 79)) ∧ 1 ≤ sector ∧ sector ≤ 9

/-- The image offset of a valid address (R64, R65, R163): `(track*9 + sector - 1) * 512`, for tracks 40 and above of a
737,280-byte image `SIDE1_OFFSET` plus the offset of the track less 40. -/
def offsetOn (p : Config.Params) (img : ByteSeq) (track sector : Nat) : Nat :=
  if img.len = 737280 ∧ 40 ≤ track then side1Offset p.side1 + ((track - 40) * 9 + (sector - 1)) * 512
  else (track * 9 + (sector - 1)) * 512

/-- Operations run one after another, stopping at the first fault or refusal. -/
def execAll : List Instr → State → Answer
  | [], s => .next s
  | i :: is, s =>
    match exec i s with
    | .next t => execAll is t
    | .fault f => .fault f
    | .refused r => .refused r

/-- The byte an operation writes to COMMAND, if it does. -/
def commandByte (p : Config.Params) : Instr → Option Byte
  | .wrCommand v => some v
  | i =>
    match encode p i with
    | .cmd v => some v
    | _ => none

/-- A window access that neither writes COMMAND nor writes DATA (R208 (c)). -/
def isSideAccess : Instr → Bool
  | .wrCommand _ => false
  | .wrData _ => false
  | i => decide (i.format = .reg)

/-- The byte a DATA write writes. -/
def dataWritten : Instr → Option Byte
  | .wrData v => some v
  | _ => none

/-- Whether an operation can change an image, a `dirty` flag or what is mounted, in a state (R168: only the arbiter's writes, the
host's media operations and the host's direct access do). -/
def mayChangeSlots (s : State) : Instr → Bool
  | .formatTrack => !isBusy s
  | .wrCommand v => !isBusy s && decide (decodeCommand s.cfg v = .formatTrack)
  | .wrData _ => decide (s.phase = .awaitingData ∧ s.xferIdx = 511)
  | .secWrite (.slot _) _ _ _ | .secWriteM (.slot _) _ _ _ | .secFmtTrk (.slot _) _ | .secFmtDsk (.slot _) => true
  | .arbWrite _ _ _ _ | .arbFmtTrk _ _ => true
  | .hostMount _ _ | .hostUnmount _ _ | .hostPersist _ _ | .hostSaveAll _ _ | .hostUnmountAll _ _ => true
  | .hostImage _ (.replaceBytes _) => true
  | _ => false

/-- What a writing buffer-level operation leaves when it answers the updated buffer `b'`: a handed buffer is handed back and no
state changes; the image of a slot is replaced and its `dirty` set (R157, R169, R181). -/
def WritesBack (s t : State) (b' : ByteSeq) : BufRef → Prop
  | .handed _ => t = { s with result := .buffer b' }
  | .slot none => False
  | .slot (some e) => t = { s.setSlot e (some ⟨b', true⟩) with result := .done }

end Sys2Proof.Machine
end

