-- ==== Sys2Proof/Certificates/Slice0/Obligations.lean ====
section
/-! DEFINITION. The statements for the provers. -/

open Sys2Proof Sys2Proof.Machine

/-! ## Encoding and the step -/

/-- R90, R91, R94, R95: decoding the encoding of a well-formed operation gives it back, at every admissible parameter value. -/
def Obligations.DecodeOfEncodeIsIdentity : Prop :=
  ∀ (p : Config.Params) (i : Instr), p.valid = true → i.wf p = true → decode p (encode p i) = .ok i

/-- R90, R91, R95: at admissible parameters every command byte and every window access decodes to a well-formed operation whose
encoding is that request, so no bit of either format is dropped; with the ten registers at the offsets 0 to 9 an offset from 10 on
is the pass-through byte `pad[off - 10]` (R9, R190, R191). -/
def Obligations.EncodeOfDecodeIsIdentity : Prop :=
  ∀ (p : Config.Params), p.valid = true →
    (∀ v : Byte, (decodeCommand p v).wf p = true ∧ encode p (decodeCommand p v) = .cmd v)
    ∧ (∀ (off : Nat) (a : Access), off < p.window →
        (decodeAccess p off a).wf p = true ∧ encode p (decodeAccess p off a) = .reg off a)
    ∧ ((∀ o ∈ p.regOffset.toList, o < 10) → ∀ off : Nat, 10 ≤ off → off < p.window →
        decodeAccess p off .rd = .rdPad (off - 10) ∧ ∀ v, decodeAccess p off (.wr v) = .wrPad (off - 10) v)

/-- R95 (which the spec marks as derived from R94): the decoder compares the whole byte with each opcode value, and every byte selects one of the eight commands or is
INVALID; at the defaults 0x00 and 0x09 to 0xFF are INVALID. -/
def Obligations.CommandByteDecoding : Prop :=
  (∀ (p : Config.Params), p.valid = true →
    decodeCommand p p.opc.readSector = .readSector ∧ decodeCommand p p.opc.writeSector = .writeSector
    ∧ decodeCommand p p.opc.seekTrack = .seekTrack ∧ decodeCommand p p.opc.readStatus = .readStatus
    ∧ decodeCommand p p.opc.formatTrack = .formatTrack ∧ decodeCommand p p.opc.readId = .readId
    ∧ decodeCommand p p.opc.recalibrate = .recalibrate ∧ decodeCommand p p.opc.senseInterrupt = .senseInterrupt
    ∧ ∀ v : Byte, decodeCommand p v = .invalid v ↔ v ∉ p.opc.toList)
  ∧ ∀ v : Byte, v ∈ Config.Params.default.opc.toList ↔ 1 ≤ v.toNat ∧ v.toNat ≤ 8

/-- R61, R202: an access inside the window, by bus address or by offset, is the access at its offset; one outside it does not reach
the block, and the step that meets it changes none of the block's state. -/
def Obligations.WindowAddressDecoding : Prop :=
  (∀ (s : State) (addr : Nat) (a : Access) (rest : List Request), s.inbox = .mem addr a :: rest →
    (∀ off : Nat, addr = s.cfg.fdcBase + off → off < s.cfg.window →
      step s = exec (decodeAccess s.cfg off a) { s with inbox := rest })
    ∧ (addr < s.cfg.fdcBase ∨ s.cfg.fdcBase + s.cfg.window ≤ addr → step s = .next { s with inbox := rest, result := .none }))
  ∧ ∀ (s : State) (off : Nat) (a : Access) (rest : List Request), s.inbox = .reg off a :: rest →
    (off < s.cfg.window → step s = exec (decodeAccess s.cfg off a) { s with inbox := rest })
    ∧ (s.cfg.window ≤ off → step s = .next { s with inbox := rest, result := .none })

/-- A step runs the decoded operation on the state with the request taken from the inbox; with an empty inbox it changes nothing;
a rejected request is refused by its name; a command byte placed for the next fetch is the command the next step runs (log 3,
log 4, log 5: the model's own form of R3's order of steps). -/
def Obligations.StepRunsDecodedOperation : Prop :=
  (∀ (s : State) (r : Request) (rest : List Request) (i : Instr), s.inbox = r :: rest → decode s.cfg r = .ok i →
    step s = exec i { s with inbox := rest })
  ∧ (∀ s : State, s.inbox = [] → step s = .next s)
  ∧ (∀ (s : State) (rest : List Request) (op : Instr), s.inbox = .unit op :: rest →
    (op.format ≠ .unit → step s = .refused (.undecodable .notAUnitOperation))
    ∧ (op.format = .unit → op.wf s.cfg = false → step s = .refused (.undecodable .illFormed)))
  ∧ (∀ (s : State) (w : Nat), w < 256 → step (s.withFetchWord 8 w) = exec (decodeCommand s.cfg (BitVec.ofNat 8 w)) s)

/-- R91, R94: words written out from the spec's tables decode to the operations they stand for. -/
def Obligations.SpecWordsDecode : Prop :=
  decodeTableWord 8 0b00000001 = some .readSector ∧ decodeTableWord 8 0b00000010 = some .writeSector
  ∧ decodeTableWord 8 0b00000111 = some .recalibrate ∧ decodeTableWord 8 0b00001000 = some .senseInterrupt
  ∧ decodeTableWord 8 0b00000000 = some (.invalid 0x00#8)
  ∧ decode Config.Params.default (.reg 0b0010 (.wr 0x77#8)) = .ok (.wrData 0x77#8)
  ∧ decode Config.Params.default (.reg 0b0100 .rd) = .ok .rdTrack
  ∧ decode Config.Params.default (.reg 0b1111 .rd) = .ok (.rdPad 5)

/-! ## Invariants and whole-machine rules -/

/-- R44: every step from a state that meets the invariants gives a state that meets them. -/
def Obligations.StepKeepsInvariants : Prop := ∀ s t : State, Inv s → step s = .next t → Inv t

/-- R293: the invariants hold in the first state. -/
def Obligations.ResetMeetsInvariants : Prop := Inv State.reset

/-- R49 (all of it the spec's decision D29): the first state has every value the spec collects for reset, and both slots empty; a
controller reset leaves the slots. -/
def Obligations.ResetValuesCollected : Prop :=
  (∀ r : RegName, State.reset.reg r = 0x00#8) ∧ State.reset.pad.length = 6 ∧ (∀ k, k < 6 → State.reset.pad[k]? = some 0x00#8)
  ∧ State.reset.phase = .idle ∧ State.reset.buf.length = 512 ∧ (∀ k, k < 512 → State.reset.buf[k]? = some 0x00#8)
  ∧ State.reset.xferIdx = 0 ∧ State.reset.xferLimit = 512 ∧ State.reset.rdActive = false
  ∧ State.reset.wrDrive = 0x00#8 ∧ State.reset.wrTrack = 0x00#8 ∧ State.reset.wrSector = 0x00#8 ∧ State.reset.pend = none
  ∧ State.reset.irqPending = false ∧ State.reset.seekDone = false ∧ State.reset.crcErr = false
  ∧ (∀ d : Drive, State.reset.slot d = none)
  ∧ ∀ s t : State, exec .reset s = .next t → t.slotA = s.slotA ∧ t.slotB = s.slotB

/-- R264: a bus access never fails: a read or write of any window offset in any phase has a next state, as has a byte written to
COMMAND; a dropped COMMAND write is silent: it answers what an accepted one answers. -/
def Obligations.BusAccessNeverFails : Prop :=
  (∀ (s : State) (i : Instr), Inv s → i.wf s.cfg = true → i.format ≠ .unit → ∃ t, exec i s = .next t)
  ∧ (∀ (s : State) (off : Nat) (a : Access), Inv s → off < s.cfg.window → ∃ t, exec (decodeAccess s.cfg off a) s = .next t)
  ∧ (∀ (s t : State) (v : Byte), exec (.wrCommand v) s = .next t → t.result = .done)
  ∧ (∀ (s : State) (v : Byte), isBusy s = true → exec (.wrCommand v) s = .next { s with result := .done })

/-- The parameters are constant, and only the step itself takes requests from the inbox (R43 (c); log 1, log 3). -/
def Obligations.NoOperationWritesParameters : Prop :=
  ∀ (s t : State) (i : Instr), exec i s = .next t → t.cfg = s.cfg ∧ t.inbox = s.inbox

/-- R244: the transition table of `phase`, with `st` after each transition; a reset always ends in Idle with `st` 0x00. -/
def Obligations.PhaseChangesOnlyAsTabled : Prop :=
  ∀ (s t : State) (i : Instr), Inv s → i.wf s.cfg = true → exec i s = .next t →
    (i ≠ .reset ∧ t.phase = s.phase ∧ (t.status = s.status
        ∨ (s.phase = .idle ∧ isCode t.status ∧ ∃ v, commandByte s.cfg i = some v ∧ v ≠ s.cfg.opc.writeSector
            ∧ v ≠ s.cfg.opc.seekTrack ∧ v ≠ s.cfg.opc.recalibrate)))
    ∨ (s.phase = .idle ∧ t.phase = .awaitingData ∧ commandByte s.cfg i = some s.cfg.opc.writeSector ∧ t.status = awaitByte s.cfg)
    ∨ (s.phase = .idle ∧ t.phase = .seekPending ∧ t.status = busyByte s.cfg
        ∧ (commandByte s.cfg i = some s.cfg.opc.seekTrack ∨ commandByte s.cfg i = some s.cfg.opc.recalibrate))
    ∨ (s.phase = .awaitingData ∧ t.phase = .idle ∧ (∃ v, i = .wrData v) ∧ s.xferIdx = 511 ∧ isCode t.status)
    ∨ (s.phase = .seekPending ∧ t.phase = .idle ∧ i = .fire ∧ t.status = 0x00#8)
    ∨ (i = .reset ∧ t.phase = .idle ∧ t.status = 0x00#8)

/-- R242 (and the safety law of 95_test_vectors.md section 7): while BUSY no bus access but the 512th DATA write of a write data
phase changes the phase, `st`, the latches, the pending completion or a slot. -/
def Obligations.NoBusAccessDisturbsCommandInFlight : Prop :=
  ∀ (s t : State) (i : Instr), Inv s → isBusy s = true → i.format ≠ .unit → exec i s = .next t →
    ¬(s.phase = .awaitingData ∧ s.xferIdx = 511 ∧ ∃ v, i = .wrData v) →
    t.phase = s.phase ∧ t.status = s.status ∧ t.pend = s.pend ∧ t.wrDrive = s.wrDrive ∧ t.wrTrack = s.wrTrack
    ∧ t.wrSector = s.wrSector ∧ t.slotA = s.slotA ∧ t.slotB = s.slotB

/-- R167, R168: only the arbiter's writes, the host's media operations and the host's direct access change a slot: its image, its
`dirty` flag or whether it is mounted. -/
def Obligations.SlotsChangeOnlyThroughArbiterAndHost : Prop :=
  ∀ (s t : State) (i : Instr), mayChangeSlots s i = false → exec i s = .next t →
    t.slotA = s.slotA ∧ t.slotB = s.slotB ∧ SameImages s t

/-- R265, R266: `irq_pending` is cleared only by SENSE_INTERRUPT and by reset, and becomes true only in a completion with code
0x00: FIRE, the 512th DATA write of a write data phase, or a command that completes at once and is not SENSE_INTERRUPT. A completion
sets it with code 0x00 and leaves it with any other code; two successes leave it true. -/
def Obligations.InterruptFlagChangesOnlyAsRuled : Prop :=
  (∀ (s t : State) (i : Instr), exec i s = .next t → s.irqPending = true → t.irqPending = false →
    i = .reset ∨ (isBusy s = false ∧ commandByte s.cfg i = some s.cfg.opc.senseInterrupt))
  ∧ (∀ (s t : State) (i : Instr), s.cfg.valid = true → exec i s = .next t → s.irqPending = false → t.irqPending = true →
    t.status = 0x00#8 ∧ t.phase = .idle
    ∧ ((i = .fire ∧ s.phase = .seekPending)
      ∨ ((∃ v, i = .wrData v) ∧ s.phase = .awaitingData ∧ s.xferIdx = 511)
      ∨ (isBusy s = false ∧ ∃ v, commandByte s.cfg i = some v ∧ v ≠ s.cfg.opc.senseInterrupt ∧ v ≠ s.cfg.opc.writeSector
          ∧ v ≠ s.cfg.opc.seekTrack ∧ v ≠ s.cfg.opc.recalibrate)))
  ∧ ∀ (c : StatusCode) (s : State), (complete c s).irqPending = true ↔ c = .ok ∨ s.irqPending = true

/-! ## Completion and the commands -/

/-- R104, R223: completion writes the code's byte, rests the state machine and sets the flag on success; BUSY is clear after it
for every admissible position of BUSY (R101). -/
def Obligations.CompletionWritesCodeAndClearsBusy : Prop :=
  (StatusCode.ok.toByte = 0x00#8 ∧ StatusCode.idNotFound.toByte = 0x10#8 ∧ StatusCode.crcErr.toByte = 0x20#8
    ∧ StatusCode.abnormal.toByte = 0x40#8 ∧ StatusCode.notReady.toByte = 0x50#8 ∧ StatusCode.invalidCmd.toByte = 0x80#8)
  ∧ ∀ (c : StatusCode) (s : State), s.cfg.valid = true →
    isBusy (complete c s) = false
    ∧ complete c s = { s with status := c.toByte, phase := .idle, irqPending := decide (c = .ok) || s.irqPending }

/-- R193, R222: a COMMAND write is the command its byte selects: accepted, it stores the byte; while BUSY, it and every command
byte are dropped whole. -/
def Obligations.CommandWriteRunsSelectedCommand : Prop :=
  (∀ (s : State) (v : Byte), exec (.wrCommand v) s = exec (decodeCommand s.cfg v) s)
  ∧ (∀ (s : State) (v : Byte), isBusy s = false → ∃ t, exec (.wrCommand v) s = .next t ∧ t.command = v)
  ∧ (∀ (s : State) (i : Instr) (v : Byte), isBusy s = true → commandByte s.cfg i = some v →
    exec i s = .next { s with result := .done })

/-- R225: READ_SECTOR, with the order of tests of R271 and the length of R204. -/
def Obligations.ReadSectorOutcomes : Prop :=
  ∀ s : State, isBusy s = false →
    (s.slotOf (driveOf s.cfg s.driveSelect) = none →
      exec .readSector s = .next { s with
          command := s.cfg.opc.readSector, rdActive := false, crcErr := false, status := 0x50#8, phase := .idle,
          result := .done })
    ∧ ∀ sl : Slot, s.slotOf (driveOf s.cfg s.driveSelect) = some sl →
      (locateIn s.cfg sl.img s.track.toNat s.sector.toNat = .error .outOfBounds →
        exec .readSector s = .next { s with
            command := s.cfg.opc.readSector, rdActive := false, crcErr := false, status := 0x10#8, phase := .idle,
            result := .done })
      ∧ ∀ off : Nat, locateIn s.cfg sl.img s.track.toNat s.sector.toNat = .ok off →
        (s.cfg.crcCheckOnRead = false ∨ crcVerify s.cfg (sl.img.slice off 512) = true →
          exec .readSector s = .next { s with
              command := s.cfg.opc.readSector, rdActive := true, crcErr := false, buf := sl.img.slice off 512,
              xferIdx := 0, xferLimit := if s.dmaCount = 0x00#8 then s.cfg.dmaLimitZero else s.dmaCount.toNat,
              status := 0x00#8, phase := .idle, irqPending := true, result := .done })
        ∧ (s.cfg.crcCheckOnRead = true → crcVerify s.cfg (sl.img.slice off 512) = false →
          exec .readSector s = .next { s with
              command := s.cfg.opc.readSector, rdActive := false, crcErr := true, buf := sl.img.slice off 512,
              status := 0x20#8, phase := .idle, result := .done })

/-- R226: WRITE_SECTOR latches its operands and enters the write data phase; `st` has exactly BUSY, DATA_REQUEST and, with
`AWAIT_DIR` 1, DATA_DIRECTION set. -/
def Obligations.WriteSectorEntersDataPhase : Prop :=
  ∀ s : State, isBusy s = false →
    ∃ t, exec .writeSector s = .next t
      ∧ t = { s with
          command := s.cfg.opc.writeSector, rdActive := false, wrDrive := s.driveSelect, wrTrack := s.track,
          wrSector := s.sector, xferIdx := 0, phase := .awaitingData, status := t.status, result := .done }
      ∧ ∀ k : Fin 8, t.status.getLsbD k.val = true ↔
          (k = s.cfg.stbit.busy ∨ k = s.cfg.stbit.dataRequest ∨ (k = s.cfg.stbit.dataDirection ∧ s.cfg.awaitDir = true))

/-- R228, R234: SEEK_TRACK and RECALIBRATE leave BUSY alone set and a completion of code 0x00 pending; RECALIBRATE zeroes TRACK at
issue. -/
def Obligations.DeferredCommandsSchedule : Prop :=
  ∀ s : State, isBusy s = false →
    (∃ t, exec .seekTrack s = .next t
      ∧ t = { s with
          command := s.cfg.opc.seekTrack, rdActive := false, seekDone := false, pend := some ⟨.ok, 10⟩,
          phase := .seekPending, status := t.status, result := .done }
      ∧ ∀ k : Fin 8, t.status.getLsbD k.val = true ↔ k = s.cfg.stbit.busy)
    ∧ (∃ t, exec .recalibrate s = .next t
      ∧ t = { s with
          command := s.cfg.opc.recalibrate, track := 0x00#8, rdActive := false, seekDone := false,
          pend := some ⟨.ok, 100⟩, phase := .seekPending, status := t.status, result := .done }
      ∧ ∀ k : Fin 8, t.status.getLsbD k.val = true ↔ k = s.cfg.stbit.busy)

/-- R240: FIRE completes what is pending. -/
def Obligations.FireCompletesPending : Prop :=
  ∀ (s : State) (p : Pending), s.phase = .seekPending → s.pend = some p →
    exec .fire s = .next { s with
        seekDone := true, pend := none, status := p.code.toByte, phase := .idle,
        irqPending := decide (p.code = .ok) || s.irqPending, result := .done }

/-- R230, R231: READ_STATUS puts the drive status byte in DATA, bit for bit, and completes 0x00. -/
def Obligations.ReadStatusDeliversDriveStatus : Prop :=
  ∀ s : State, isBusy s = false →
    ∃ t, exec .readStatus s = .next t
      ∧ t = { s with
          command := s.cfg.opc.readStatus, rdActive := false, data := t.data, status := 0x00#8, phase := .idle,
          irqPending := true, result := .done }
      ∧ ∀ k : Fin 8, t.data.getLsbD k.val = true ↔
          ((k = s.cfg.stbit.track0 ∧ s.track = 0x00#8) ∨ (k = s.cfg.stbit.seekComplete ∧ s.seekDone = true)
            ∨ (k = s.cfg.stbit.crcError ∧ s.crcErr = true)
            ∨ (k = s.cfg.stbit.driveReady ∧ ∃ e, driveOf s.cfg s.driveSelect = some e ∧ s.slot e ≠ none))

/-- R232, R166: FORMAT_TRACK zeroes the nine sectors of the track and nothing else of any image, or fails with no image change. -/
def Obligations.FormatTrackOutcomes : Prop :=
  ∀ s : State, isBusy s = false →
    (s.slotOf (driveOf s.cfg s.driveSelect) = none →
      exec .formatTrack s = .next { s with
          command := s.cfg.opc.formatTrack, rdActive := false, status := 0x50#8, phase := .idle, result := .done })
    ∧ ∀ (e : Drive) (sl : Slot), driveOf s.cfg s.driveSelect = some e → s.slot e = some sl →
      (locateIn s.cfg sl.img s.track.toNat 1 = .error .outOfBounds →
        exec .formatTrack s = .next { s with
            command := s.cfg.opc.formatTrack, rdActive := false, status := 0x10#8, phase := .idle, result := .done })
      ∧ ∀ off : Nat, locateIn s.cfg sl.img s.track.toNat 1 = .ok off →
        ∃ (t : State) (img : ByteSeq), exec .formatTrack s = .next t
          ∧ t = { s.setSlot e (some ⟨img, true⟩) with
              command := s.cfg.opc.formatTrack, rdActive := false, status := 0x00#8, phase := .idle, irqPending := true,
              result := .done }
          ∧ SameBytesOutside sl.img img off 4608 ∧ HoldsAt img off (List.replicate 4608 0x00#8)
          ∧ SameImagesOutside s t e off 4608

/-- R233: READ_ID reports whether the address exists on the selected drive, and changes nothing else. -/
def Obligations.ReadIdProbesAddress : Prop :=
  ∀ s : State, isBusy s = false →
    (s.slotOf (driveOf s.cfg s.driveSelect) = none →
      exec .readId s = .next { s with
          command := s.cfg.opc.readId, rdActive := false, status := 0x50#8, phase := .idle, result := .done })
    ∧ ∀ sl : Slot, s.slotOf (driveOf s.cfg s.driveSelect) = some sl →
      (ValidOn sl.img s.track.toNat s.sector.toNat →
        exec .readId s = .next { s with
            command := s.cfg.opc.readId, rdActive := false, status := 0x00#8, phase := .idle, irqPending := true,
            result := .done })
      ∧ (¬ValidOn sl.img s.track.toNat s.sector.toNat →
        exec .readId s = .next { s with
            command := s.cfg.opc.readId, rdActive := false, status := 0x10#8, phase := .idle, result := .done })

/-- R235, R103: SENSE_INTERRUPT reports the flag in DATA and clears it; a second one at once reports 0x00. -/
def Obligations.SenseInterruptReportsAndClears : Prop :=
  ∀ s : State, isBusy s = false →
    exec .senseInterrupt s = .next { s with
        command := s.cfg.opc.senseInterrupt, rdActive := false, data := if s.irqPending = true then 0x01#8 else 0x00#8,
        irqPending := false, status := 0x00#8, phase := .idle, result := .done }
    ∧ ∀ t u : State, exec .senseInterrupt s = .next t → exec .senseInterrupt t = .next u → u.data = 0x00#8

/-- R238: a byte that is no opcode completes with 0x80 inside its own step; `irq_pending` and everything else stay. -/
def Obligations.UnknownCommandCompletesInvalid : Prop :=
  ∀ (s : State) (v : Byte), isBusy s = false → v ∉ s.cfg.opc.toList →
    exec (.invalid v) s = .next { s with command := v, rdActive := false, status := 0x80#8, phase := .idle, result := .done }
    ∧ exec (.wrCommand v) s = exec (.invalid v) s

/-! ## Register accesses -/

/-- R192, R194, R198, R200: a read of any register but DATA, and of a pass-through byte, answers the stored byte and changes
nothing. -/
def Obligations.PlainReadsAnswerStoredByte : Prop :=
  ∀ s : State,
    exec .rdCommand s = .next { s with result := .byte (s.reg .command) }
    ∧ exec .rdStatus s = .next { s with result := .byte (s.reg .status) }
    ∧ exec .rdDriveSelect s = .next { s with result := .byte (s.reg .driveSelect) }
    ∧ exec .rdTrack s = .next { s with result := .byte (s.reg .track) }
    ∧ exec .rdSector s = .next { s with result := .byte (s.reg .sector) }
    ∧ exec .rdDmaAddrLow s = .next { s with result := .byte (s.reg .dmaAddrLow) }
    ∧ exec .rdDmaAddrHigh s = .next { s with result := .byte (s.reg .dmaAddrHigh) }
    ∧ exec .rdDmaCount s = .next { s with result := .byte (s.reg .dmaCount) }
    ∧ exec .rdControl s = .next { s with result := .byte (s.reg .control) }
    ∧ ∀ (k : Nat) (v : Byte), s.pad[k]? = some v → exec (.rdPad k) s = .next { s with result := .byte v }

/-- R195, R199, R201: a write of a plain register stores all eight bits in every phase and changes nothing else, a write of a
pass-through byte stores that one byte, and a write of STATUS changes nothing. -/
def Obligations.PlainWritesStoreTheByte : Prop :=
  ∀ (s : State) (v : Byte),
    exec (.wrStatus v) s = .next { s with result := .done }
    ∧ exec (.wrDriveSelect v) s = .next { s with driveSelect := v, result := .done }
    ∧ exec (.wrTrack v) s = .next { s with track := v, result := .done }
    ∧ exec (.wrSector v) s = .next { s with sector := v, result := .done }
    ∧ exec (.wrDmaAddrLow v) s = .next { s with dmaAddrLow := v, result := .done }
    ∧ exec (.wrDmaAddrHigh v) s = .next { s with dmaAddrHigh := v, result := .done }
    ∧ exec (.wrDmaCount v) s = .next { s with dmaCount := v, result := .done }
    ∧ exec (.wrControl v) s = .next { s with control := v, result := .done }
    ∧ ∀ k : Nat, k < s.pad.length → ∃ t, exec (.wrPad k v) s = .next t ∧ t = { s with pad := t.pad, result := .done }
      ∧ t.pad[k]? = some v ∧ ∀ j, j ≠ k → t.pad[j]? = s.pad[j]?

/-- R196: RD DATA hands out the next buffer byte while a read transfer is enabled and ends it at the limit; else it answers
`R[DATA]`. -/
def Obligations.DataReadAdvancesTransfer : Prop :=
  ∀ s : State,
    (s.rdActive = false → exec .rdData s = .next { s with result := .byte s.data })
    ∧ ∀ v : Byte, s.rdActive = true → s.buf[s.xferIdx]? = some v →
      exec .rdData s = .next { s with
          data := v, xferIdx := s.xferIdx + 1, rdActive := !decide (s.xferIdx + 1 = s.xferLimit), result := .byte v }

/-- R197: WR DATA stores the byte; in the write data phase a byte before the 512th also goes to the buffer. -/
def Obligations.DataWriteStoresAndFeeds : Prop :=
  ∀ (s : State) (v : Byte),
    (s.phase ≠ .awaitingData → exec (.wrData v) s = .next { s with data := v, result := .done })
    ∧ (s.phase = .awaitingData → s.xferIdx < 511 →
      exec (.wrData v) s = .next { s with data := v, buf := s.buf.set s.xferIdx v, xferIdx := s.xferIdx + 1, result := .done })

/-- R227: the 512th DATA write commits to the latched drive and address: the 512 bytes land on the sector, whole, `dirty` is set
and nothing else of any image changes; or the command fails with no image change. -/
def Obligations.LastDataWriteCommits : Prop :=
  ∀ (s : State) (v : Byte), s.phase = .awaitingData → s.xferIdx = 511 → s.buf.length = 512 →
    (s.slotOf (driveOf s.cfg s.wrDrive) = none →
      exec (.wrData v) s = .next { s with
          data := v, buf := s.buf.set 511 v, xferIdx := 512, status := 0x50#8, phase := .idle, result := .done })
    ∧ ∀ (e : Drive) (sl : Slot), driveOf s.cfg s.wrDrive = some e → s.slot e = some sl →
      (locateIn s.cfg sl.img s.wrTrack.toNat s.wrSector.toNat = .error .outOfBounds →
        exec (.wrData v) s = .next { s with
            data := v, buf := s.buf.set 511 v, xferIdx := 512, status := 0x10#8, phase := .idle, result := .done })
      ∧ ∀ off : Nat, locateIn s.cfg sl.img s.wrTrack.toNat s.wrSector.toNat = .ok off →
        ∃ (t : State) (img : ByteSeq), exec (.wrData v) s = .next t
          ∧ t = { s.setSlot e (some ⟨img, true⟩) with
              data := v, buf := s.buf.set 511 v, xferIdx := 512, status := 0x00#8, phase := .idle, irqPending := true,
              result := .done }
          ∧ SameBytesOutside sl.img img off 512 ∧ HoldsAt img off (s.buf.set 511 v)
          ∧ SameImagesOutside s t e off 512

/-- An access that would move a byte the buffer or the pass-through range does not have stops by name (R60 (2), R31; log 16: the
model's choice, never reached by a window access from a state that meets `Inv`). -/
def Obligations.MissingBufferByteFaults : Prop :=
  ∀ (s : State) (v : Byte),
    (s.rdActive = true → s.buf[s.xferIdx]? = none → exec .rdData s = .fault .bufferIndex)
    ∧ (s.phase = .awaitingData → 512 ≤ s.xferIdx → exec (.wrData v) s = .fault .bufferIndex)
    ∧ ∀ k : Nat, s.pad.length ≤ k → exec (.rdPad k) s = .fault .padIndex ∧ exec (.wrPad k v) s = .fault .padIndex

/-! ## The sequencer's laws (R208) -/

/-- R208 (a), (b) (laws the spec marks as derived): in an enabled read transfer the `n`-th DATA read answers buffer byte `n - 1`, `xfer_idx` is `n`, and the transfer
is enabled exactly while `n` is below the limit; nothing else changes. -/
def Obligations.ReadTransferDeliversBuffer : Prop :=
  ∀ (s : State) (n : Nat), s.rdActive = true → s.xferIdx = 0 → s.buf.length = 512 → s.xferLimit ≤ 512 → n < s.xferLimit →
    ∃ (t : State) (v : Byte), execAll (List.replicate (n + 1) .rdData) s = .next t ∧ s.buf[n]? = some v
      ∧ t = { s with data := v, xferIdx := n + 1, rdActive := decide (n + 1 < s.xferLimit), result := .byte v }

/-- R208 (c) (a law the spec marks as derived): 512 DATA writes, with any other window accesses but COMMAND and DATA writes between them, commit exactly the bytes
written, to the drive and address latched at issue. -/
def Obligations.WriteDataPhaseCommitsItsBytes : Prop :=
  ∀ (s : State) (is : List Instr) (b : List Byte),
    s.phase = .awaitingData → s.rdActive = false → s.xferIdx = 0 → s.buf.length = 512 → s.pad.length = s.cfg.padBytes →
    (∀ i ∈ is, i.wf s.cfg = true) → (∀ i ∈ is, isSideAccess i = true ∨ ∃ v, i = .wrData v) → is.filterMap dataWritten = b → b.length = 512 →
    ∃ t, execAll is s = .next t ∧ t.phase = .idle ∧ t.buf = b ∧ t.xferIdx = 512
      ∧ (∀ f, arbWrite s (driveOf s.cfg s.wrDrive) s.wrTrack.toNat s.wrSector.toNat b = .error f →
          t.status = (failCode f).toByte ∧ t.irqPending = s.irqPending ∧ t.slotA = s.slotA ∧ t.slotB = s.slotB)
      ∧ (∀ u, arbWrite s (driveOf s.cfg s.wrDrive) s.wrTrack.toNat s.wrSector.toNat b = .ok u →
          t.status = 0x00#8 ∧ t.irqPending = true ∧ t.slotA = u.slotA ∧ t.slotB = u.slotB)

/-- R208 (d) (a law the spec marks as derived): with the host idle, what WRITE_SECTOR wrote through the registers is what READ_SECTOR
hands back, up to the transfer length of R204 (512 bytes if DMA_COUNT is 0 and `DMA_LIMIT_ZERO` 512): DATA read number `k + 1`
answers byte `k` of the sector written. If the reading checks the CRC, the sector written is one that verifies. -/
def Obligations.RegisterProtocolRoundTrip : Prop :=
  ∀ (s : State) (b : List Byte) (e : Drive) (sl : Slot) (k : Nat),
    s.cfg.valid = true → isBusy s = false → s.buf.length = 512 → b.length = 512 →
    (s.cfg.crcCheckOnRead = false ∨ crcVerify s.cfg b = true) →
    driveOf s.cfg s.driveSelect = some e → s.slot e = some sl → ValidOn sl.img s.track.toNat s.sector.toNat →
    k < limit s.cfg s.dmaCount →
    ∃ (t : State) (v : Byte),
      execAll (.writeSector :: (b.map .wrData ++ .readSector :: List.replicate (k + 1) .rdData)) s = .next t
      ∧ b[k]? = some v ∧ t.result = .byte v ∧ t.status = 0x00#8

/-! ## The CRC unit -/

/-- R122 (the spec marks the equivalence as derived from R121): the table form of the byte step and the bit-serial form agree for every register value and byte. -/
def Obligations.CrcTableStepIsBitSerial : Prop :=
  ∀ (c : Word16) (b : Byte),
    crcStep c b = (c >>> 8) ^^^ crcTable (((c ^^^ b.setWidth 16) &&& 0x00FF#16).setWidth 8)
    ∧ crcStep c b = crcBits8 (c ^^^ b.setWidth 16)

/-- R123, R125: what the two CRC operations answer; neither changes any state. -/
def Obligations.CrcOperationsAnswer : Prop :=
  ∀ s : State,
    (∀ data : List Byte,
      exec (.crcCompute data) s = .next { s with result := .crc (data.foldl crcStep s.cfg.crcInit ^^^ s.cfg.crcXorOut) })
    ∧ (∀ (d : List Byte) (lo hi : Byte), d.length = 510 →
      exec (.crcVerify (d ++ [lo, hi])) s = .next { s with result := .bool (decide (crc16 s.cfg d = hi ++ lo)) })

/-- R126 (b), (c): a sector whose last two bytes are the CRC of the first 510 is accepted, and it is rejected with either of them
altered. -/
def Obligations.CrcVerifyAcceptsExactlyTheCrc : Prop :=
  ∀ (p : Config.Params) (d : List Byte) (x y : Byte), d.length = 510 →
    (crcVerify p (d ++ [x, y]) = true ↔ x = (crc16 p d).setWidth 8 ∧ y = (crc16 p d >>> 8).setWidth 8)

/-- R127 (which the spec marks as derived from R122): with no final XOR, the CRC of a sequence followed by its own CRC, low byte
first, is zero; and a verifier that runs all 512 bytes and compares with zero gives the verdict of CRC16.VERIFY. -/
def Obligations.CrcResidueIsZero : Prop :=
  ∀ (p : Config.Params) (d : List Byte), p.crcXorOut = 0x0000#16 →
    crc16 p (d ++ [(crc16 p d).setWidth 8, (crc16 p d >>> 8).setWidth 8]) = 0x0000#16
    ∧ ∀ x y : Byte, d.length = 510 → (crcVerify p (d ++ [x, y]) = true ↔ crc16 p (d ++ [x, y]) = 0x0000#16)

/-- A change of one byte among the covered 510 is always detected: derived from the CRC of R121, R122, R123 and the comparison of
R125. (R126's own remark on the covered bytes, which the spec marks as general knowledge, speaks of single-bit changes only.) -/
def Obligations.CrcDetectsOneChangedByte : Prop :=
  ∀ (p : Config.Params) (d : List Byte) (x y v : Byte) (k : Nat), d.length = 510 → k < 510 → d[k]? ≠ some v →
    crcVerify p (d ++ [x, y]) = true → crcVerify p (d.set k v ++ [x, y]) = false

/-! ## Steps with no state -/

/-- A step outside its precondition or operand type is refused by name, and no other state results: a sector or multi-sector
payload of a length the operand type excludes (U21; log 8), FIRE with nothing pending (R240; log 9). The refusals are the model's
form of "no step". -/
def Obligations.StepsOutsideTheirPreconditionsAreRefused : Prop :=
  ∀ (s : State) (ref : BufRef) (d : Option Drive) (t n : Nat) (data : List Byte),
    (data.length ≠ 512 → exec (.crcVerify data) s = .refused .payloadLength
      ∧ exec (.secWrite ref t n data) s = .refused .payloadLength ∧ exec (.arbWrite d t n data) s = .refused .payloadLength)
    ∧ (data.length % 512 ≠ 0 → exec (.secWriteM ref t n data) s = .refused .payloadLength)
    ∧ (s.phase ≠ .seekPending ∨ s.pend = none → exec .fire s = .refused .fireNotPending)

/-! ## The translator -/

/-- R141, R142: what the two translations answer; no state changes. -/
def Obligations.TranslatorAnswers : Prop :=
  ∀ s : State,
    (∀ t n : Nat, t ≤ 39 → 1 ≤ n → n ≤ 9 → exec (.satP2L t n) s = .next { s with result := .index (t * 9 + (n - 1)) })
    ∧ (∀ t n : Nat, 39 < t ∨ n < 1 ∨ 9 < n → exec (.satP2L t n) s = .next { s with result := .failed .outOfBounds })
    ∧ (∀ l : Nat, l ≤ 359 → exec (.satL2P l) s = .next { s with result := .physical (l / 9) (l % 9 + 1) })
    ∧ (∀ l : Nat, 359 < l → exec (.satL2P l) s = .next { s with result := .failed .outOfBounds })

/-- R145 (which the spec marks as derived from R141 and R142): the two translations are inverse, strictly increasing, and run on from track to track. -/
def Obligations.TranslationsAreInverse : Prop :=
  (∀ t n l : Nat, p2l t n = .ok l → l2p l = .ok (t, n))
  ∧ (∀ l t n : Nat, l2p l = .ok (t, n) → p2l t n = .ok l)
  ∧ (∀ t n t' n' l l' : Nat, p2l t n = .ok l → p2l t' n' = .ok l' → (t < t' ∨ (t = t' ∧ n < n')) → l < l')
  ∧ (∀ t l : Nat, t ≤ 38 → p2l t 9 = .ok l → p2l (t + 1) 1 = .ok (l + 1))
  ∧ (∀ l : Nat, (∃ t n, p2l t n = .ok l) ↔ l < 360)

/-- R163: the slot-level address: a drive that is not ready comes first, then the address; on a mounted image the offset is the one
of the geometry, with the remap of tracks 40 and above of a 737,280-byte image. The last clause, that the sector lies inside the
image, is R163's sentence "The returned offset plus 512 never exceeds `len(Img(d))`", which the spec marks as derived from R64 and
R65. -/
def Obligations.LocateFollowsGeometry : Prop :=
  ∀ (s : State) (d : Option Drive) (t n : Nat),
    (s.slotOf d = none → locate s d t n = .error .notReady)
    ∧ ∀ sl : Slot, s.slotOf d = some sl →
      (ValidOn sl.img t n → locate s d t n = .ok (offsetOn s.cfg sl.img t n))
      ∧ (¬ValidOn sl.img t n → locate s d t n = .error .outOfBounds)
      ∧ ∀ off : Nat, (sl.img.len = 368640 ∨ sl.img.len = 737280) → locate s d t n = .ok off → off + 512 ≤ sl.img.len

/-! ## The buffer level -/

/-- R156, R158: SEC.READ and SEC.READM answer the bytes of the run, or `OutOfBounds`; no state changes. -/
def Obligations.BufferReadsAnswerTheRun : Prop :=
  ∀ (s : State) (ref : BufRef) (b : ByteSeq) (t n c : Nat), bufferOf s ref = .ok b →
    (InRange t n → (t * 9 + (n - 1)) * 512 + 512 ≤ b.len →
      exec (.secRead ref t n) s = .next { s with result := .bytes (b.slice ((t * 9 + (n - 1)) * 512) 512) })
    ∧ (¬InRange t n ∨ b.len < (t * 9 + (n - 1)) * 512 + 512 →
      exec (.secRead ref t n) s = .next { s with result := .failed .outOfBounds })
    ∧ (InRange t n → t * 9 + (n - 1) + c ≤ 360 → (t * 9 + (n - 1) + c) * 512 ≤ b.len →
      exec (.secReadM ref t n c) s = .next { s with result := .bytes (b.slice ((t * 9 + (n - 1)) * 512) (c * 512)) })
    ∧ (¬InRange t n ∨ 360 < t * 9 + (n - 1) + c ∨ b.len < (t * 9 + (n - 1) + c) * 512 →
      exec (.secReadM ref t n c) s = .next { s with result := .failed .outOfBounds })

/-- R157: SEC.WRITE replaces the sector's 512 bytes and no other, so that SEC.READ then answers them, or fails and changes nothing. -/
def Obligations.BufferWriteReplacesOneSector : Prop :=
  ∀ (s : State) (ref : BufRef) (b : ByteSeq) (t n : Nat) (data : List Byte), bufferOf s ref = .ok b →
    (data.length = 512 → InRange t n → (t * 9 + (n - 1)) * 512 + 512 ≤ b.len →
      ∃ (u : State) (b' : ByteSeq), exec (.secWrite ref t n data) s = .next u ∧ WritesBack s u b' ref
        ∧ SameBytesOutside b b' ((t * 9 + (n - 1)) * 512) 512 ∧ HoldsAt b' ((t * 9 + (n - 1)) * 512) data
        ∧ secRead b' t n = .ok data)
    ∧ (data.length = 512 → ¬InRange t n ∨ b.len < (t * 9 + (n - 1)) * 512 + 512 →
      exec (.secWrite ref t n data) s = .next { s with result := .failed .outOfBounds })

/-- R159: SEC.WRITEM replaces the run, whole or not at all. -/
def Obligations.BufferRunWriteIsAllOrNothing : Prop :=
  ∀ (s : State) (ref : BufRef) (b : ByteSeq) (t n c : Nat) (data : List Byte), bufferOf s ref = .ok b → data.length = c * 512 →
    (InRange t n → t * 9 + (n - 1) + c ≤ 360 → (t * 9 + (n - 1) + c) * 512 ≤ b.len →
      ∃ (u : State) (b' : ByteSeq), exec (.secWriteM ref t n data) s = .next u ∧ WritesBack s u b' ref
        ∧ SameBytesOutside b b' ((t * 9 + (n - 1)) * 512) (c * 512) ∧ HoldsAt b' ((t * 9 + (n - 1)) * 512) data)
    ∧ (¬InRange t n ∨ 360 < t * 9 + (n - 1) + c ∨ b.len < (t * 9 + (n - 1) + c) * 512 →
      exec (.secWriteM ref t n data) s = .next { s with result := .failed .outOfBounds })

/-- R160, R161: a track format zeroes its nine sectors, a disk format the 360 addressable sectors, and no other byte. -/
def Obligations.BufferFormatsZeroTheirSectors : Prop :=
  ∀ (s : State) (ref : BufRef) (b : ByteSeq) (t : Nat), bufferOf s ref = .ok b →
    (t ≤ 39 → t * 4608 + 4608 ≤ b.len →
      ∃ (u : State) (b' : ByteSeq), exec (.secFmtTrk ref t) s = .next u ∧ WritesBack s u b' ref
        ∧ SameBytesOutside b b' (t * 4608) 4608 ∧ HoldsAt b' (t * 4608) (List.replicate 4608 0x00#8))
    ∧ (39 < t ∨ b.len < t * 4608 + 4608 → exec (.secFmtTrk ref t) s = .next { s with result := .failed .outOfBounds })
    ∧ (184320 ≤ b.len →
      ∃ (u : State) (b' : ByteSeq), exec (.secFmtDsk ref) s = .next u ∧ WritesBack s u b' ref
        ∧ SameBytesOutside b b' 0 184320 ∧ HoldsAt b' 0 (List.replicate 184320 0x00#8))
    ∧ (b.len < 184320 → exec (.secFmtDsk ref) s = .next { s with result := .failed .outOfBounds })

/-- A buffer-level operation the host applies to a slot with no image answers `NotReady` and changes nothing (R162, R169; log 13:
the model's inference). -/
def Obligations.BufferOperationsNeedAMountedSlot : Prop :=
  ∀ (s : State) (d : Option Drive) (t n c : Nat) (data : List Byte), s.slotOf d = none → data.length = 512 →
    exec (.secRead (.slot d) t n) s = .next { s with result := .failed .notReady }
    ∧ exec (.secWrite (.slot d) t n data) s = .next { s with result := .failed .notReady }
    ∧ exec (.secReadM (.slot d) t n c) s = .next { s with result := .failed .notReady }
    ∧ exec (.secWriteM (.slot d) t n data) s = .next { s with result := .failed .notReady }
    ∧ exec (.secFmtTrk (.slot d) t) s = .next { s with result := .failed .notReady }
    ∧ exec (.secFmtDsk (.slot d)) s = .next { s with result := .failed .notReady }

/-! ## The slot level -/

/-- R164: ARB.READ answers the sector's 512 bytes, `NotReady` or `OutOfBounds`, and changes nothing, `dirty` included. -/
def Obligations.SlotReadAnswersTheSector : Prop :=
  ∀ (s : State) (d : Option Drive) (t n : Nat),
    (s.slotOf d = none → exec (.arbRead d t n) s = .next { s with result := .failed .notReady })
    ∧ ∀ sl : Slot, s.slotOf d = some sl →
      (ValidOn sl.img t n → ∃ bytes : List Byte, exec (.arbRead d t n) s = .next { s with result := .bytes bytes }
        ∧ bytes.length = 512 ∧ ∀ k, k < 512 → bytes[k]? = some (sl.img.read (offsetOn s.cfg sl.img t n + k)))
      ∧ (¬ValidOn sl.img t n → exec (.arbRead d t n) s = .next { s with result := .failed .outOfBounds })

/-- R165: ARB.WRITE writes the sector and sets `dirty`; no other byte of any image changes; on failure nothing changes. The last
clause, that ARB.READ then answers what was written, is the law of R165 that the spec marks as derived from R163 and R164. -/
def Obligations.SlotWriteReadsBack : Prop :=
  ∀ (s : State) (d : Option Drive) (t n : Nat) (data : List Byte),
    (data.length = 512 → s.slotOf d = none → exec (.arbWrite d t n data) s = .next { s with result := .failed .notReady })
    ∧ ∀ (e : Drive) (sl : Slot), data.length = 512 → d = some e → s.slot e = some sl →
      (locateIn s.cfg sl.img t n = .error .outOfBounds →
        exec (.arbWrite d t n data) s = .next { s with result := .failed .outOfBounds })
      ∧ ∀ off : Nat, locateIn s.cfg sl.img t n = .ok off →
        ∃ (u : State) (img : ByteSeq), exec (.arbWrite d t n data) s = .next u
          ∧ u = { s.setSlot e (some ⟨img, true⟩) with result := .done }
          ∧ SameBytesOutside sl.img img off 512 ∧ HoldsAt img off data ∧ SameImagesOutside s u e off 512
          ∧ exec (.arbRead d t n) u = .next { u with result := .bytes data }

/-- R166: ARB.FMTTRK zeroes the track's nine sectors and sets `dirty`; no other byte of any image changes; on failure nothing
changes. -/
def Obligations.SlotFormatZeroesTheTrack : Prop :=
  ∀ (s : State) (d : Option Drive) (t : Nat),
    (s.slotOf d = none → exec (.arbFmtTrk d t) s = .next { s with result := .failed .notReady })
    ∧ ∀ (e : Drive) (sl : Slot), d = some e → s.slot e = some sl →
      (locateIn s.cfg sl.img t 1 = .error .outOfBounds →
        exec (.arbFmtTrk d t) s = .next { s with result := .failed .outOfBounds })
      ∧ ∀ off : Nat, locateIn s.cfg sl.img t 1 = .ok off →
        ∃ (u : State) (img : ByteSeq), exec (.arbFmtTrk d t) s = .next u
          ∧ u = { s.setSlot e (some ⟨img, true⟩) with result := .done }
          ∧ SameBytesOutside sl.img img off 4608 ∧ HoldsAt img off (List.replicate 4608 0x00#8)
          ∧ SameImagesOutside s u e off 4608

/-! ## The host's media operations -/

/-- R171: HOST.MOUNT installs an image of either length in an empty slot with `dirty` false; a bad drive id, a missing file or
another length fails and mounts nothing; an occupied slot has no step. -/
def Obligations.MountInstallsOrFails : Prop :=
  ∀ (s : State),
    (∀ (e : Drive) (img : ByteSeq), img.len = 368640 ∨ img.len = 737280 →
      (s.slot e = none →
        exec (.hostMount (some e) (some img)) s = .next { s.setSlot e (some ⟨img, false⟩) with result := .bool true })
      ∧ (s.slot e ≠ none → exec (.hostMount (some e) (some img)) s = .refused .mountOccupied))
    ∧ (∀ (d : Option Drive) (img : Option ByteSeq),
      d = none ∨ img = none ∨ (∃ b, img = some b ∧ b.len ≠ 368640 ∧ b.len ≠ 737280) →
      exec (.hostMount d img) s = .next { s with result := .bool false })

/-- R172: HOST.UNMOUNT hands a dirty image to the backing store and empties the slot; a clean one is just released; with nothing
mounted it fails. If the store's I/O fails the slot is unchanged or empty, whichever the free value says: this last clause is the
model's (U9; log 10, log 11). -/
def Obligations.UnmountPersistsThenReleases : Prop :=
  ∀ (s : State),
    (∀ (d : Option Drive) (io : IoOutcome), s.slotOf d = none →
      exec (.hostUnmount d io) s = .next { s with result := .persisted [] false })
    ∧ ∀ (e : Drive) (sl : Slot), s.slot e = some sl →
      (sl.dirty = false → ∀ io, exec (.hostUnmount (some e) io) s = .next { s.setSlot e none with result := .persisted [] true })
      ∧ (sl.dirty = true →
        exec (.hostUnmount (some e) .ok) s = .next { s.setSlot e none with result := .persisted [(e, sl.img)] true })
      ∧ (sl.dirty = true →
        ∃ t, exec (.hostUnmount (some e) .error) s = .next t
          ∧ (t = { s with freeIdx := s.freeIdx + 1, result := .persisted [] false }
            ∨ t = { s.setSlot e none with freeIdx := s.freeIdx + 1, result := .persisted [] false }))

/-- R173, R167: HOST.PERSIST hands a dirty image to the backing store and clears `dirty`, and does nothing to a clean one; the image
stays. A persist whose I/O fails leaves `dirty` (log 10), and on a drive with nothing mounted nothing changes (log 12): these two
clauses are the model's. -/
def Obligations.PersistClearsDirty : Prop :=
  ∀ (s : State),
    (∀ (e : Drive) (sl : Slot), s.slot e = some sl →
      (sl.dirty = true → exec (.hostPersist (some e) .ok) s
        = .next { s.setSlot e (some ⟨sl.img, false⟩) with result := .persisted [(e, sl.img)] true })
      ∧ (sl.dirty = false → ∀ io, exec (.hostPersist (some e) io) s = .next { s with result := .persisted [] true })
      ∧ (sl.dirty = true → exec (.hostPersist (some e) .error) s = .next { s with result := .persisted [] false }))
    ∧ ∀ (d : Option Drive) (io : IoOutcome), s.slotOf d = none →
      ∃ b, exec (.hostPersist d io) s = .next { s with freeIdx := s.freeIdx + 1, result := .persisted [] b }

/-- R174: HOST.SAVEALL persists each mounted slot: with I/O that succeeds, afterwards no slot is dirty, every image is as it was and
the answer is true with exactly the dirty images handed over. With I/O that fails the answer is true exactly if no slot is dirty:
this clause is the model's (log 10). -/
def Obligations.SaveAllPersistsEverySlot : Prop :=
  ∀ (s : State) (ioA ioB : IoOutcome),
    ∃ (t : State) (out : List (Drive × ByteSeq)) (ok : Bool), exec (.hostSaveAll ioA ioB) s = .next t
      ∧ t = { s with slotA := t.slotA, slotB := t.slotB, result := .persisted out ok }
      ∧ SameImages s t
      ∧ (ok = true ↔ ∀ (e : Drive) (sl : Slot), t.slot e = some sl → sl.dirty = false)
      ∧ (ioA = .ok → ioB = .ok → ok = true
          ∧ ∀ (e : Drive) (img : ByteSeq), (e, img) ∈ out ↔ s.slot e = some ⟨img, true⟩)

/-- R175: HOST.UNMOUNTALL: with I/O that succeeds both slots are empty afterwards and exactly the dirty images were handed over;
nothing but slots, answer and the free-value counter ever changes. What failed I/O leaves is the model's (U9; log 10, log 11). -/
def Obligations.UnmountAllEmptiesBothSlots : Prop :=
  ∀ (s : State) (ioA ioB : IoOutcome),
    ∃ (t : State) (out : List (Drive × ByteSeq)), exec (.hostUnmountAll ioA ioB) s = .next t
      ∧ t = { s with slotA := t.slotA, slotB := t.slotB, freeIdx := t.freeIdx, result := .unmountedAll out }
      ∧ (∀ e : Drive, t.slot e = s.slot e ∨ t.slot e = none)
      ∧ (ioA = .ok → ioB = .ok → t.slotA = none ∧ t.slotB = none ∧ t.freeIdx = s.freeIdx
          ∧ ∀ (e : Drive) (img : ByteSeq), (e, img) ∈ out ↔ s.slot e = some ⟨img, true⟩)

/-- R176: HOST.CREATE answers a zero-filled image of the requested size, fit for a mount, and touches no slot. That the answer also
says whether the store took it is the model's (log 10). -/
def Obligations.CreateMakesAZeroImage : Prop :=
  ∀ (s : State) (path : String) (big : Bool) (io : IoOutcome),
    ∃ img : ByteSeq, exec (.hostCreate path big io) s = .next { s with result := .created path img (decide (io = .ok)) }
      ∧ img.len = (if big = true then 737280 else 368640) ∧ img.wf = true ∧ ∀ a, img.read a = 0x00#8

/-- R181: HOST.IMAGE reads any bytes of a mounted image and changes nothing, or replaces the listed bytes, and only them, and sets
`dirty`. An offset outside the image faults and a drive with no image is refused (log 9, log 14: these two stops are the model's). -/
def Obligations.HostImageReadsOrReplaces : Prop :=
  ∀ (s : State),
    (∀ (e : Drive) (sl : Slot), s.slot e = some sl →
      (∀ offsets : List Nat, (∀ o ∈ offsets, o < sl.img.len) →
        exec (.hostImage (some e) (.readBytes offsets)) s = .next { s with result := .bytes (offsets.map sl.img.read) })
      ∧ (∀ cells : List Host.Cell, (∀ c ∈ cells, c.1 < sl.img.len) →
        ∃ (t : State) (img : ByteSeq), exec (.hostImage (some e) (.replaceBytes cells)) s = .next t
          ∧ t = { s.setSlot e (some ⟨img, true⟩) with result := .done } ∧ img.len = sl.img.len
          ∧ (∀ a, (∀ c ∈ cells, c.1 ≠ a) → img.read a = sl.img.read a)
          ∧ ((cells.map Prod.fst).Nodup → ∀ c ∈ cells, img.read c.1 = c.2))
      ∧ (∀ offsets : List Nat, (∃ o ∈ offsets, sl.img.len ≤ o) →
        exec (.hostImage (some e) (.readBytes offsets)) s = .fault .imageOffset)
      ∧ (∀ cells : List Host.Cell, (∃ c ∈ cells, sl.img.len ≤ c.1) →
        exec (.hostImage (some e) (.replaceBytes cells)) s = .fault .imageOffset))
    ∧ ∀ (d : Option Drive) (op : ImageOp), s.slotOf d = none → exec (.hostImage d op) s = .refused .imageNotMounted

/-- R290, R291: RESET gives every piece of the block's state its reset value and leaves the slots as they are; a pending completion
is discarded. -/
def Obligations.ResetStepLeavesSlots : Prop :=
  ∀ s : State, ∃ t, exec .reset s = .next t
    ∧ t = { State.reset with
        pad := List.replicate (s.cfg.window - 10) 0x00#8, slotA := s.slotA, slotB := s.slotB, cfg := s.cfg, inbox := s.inbox, freeIdx := s.freeIdx, result := .done }
    ∧ exec .fire t = .refused .fireNotPending ∧ SameImages s t
end

