-- ==== Sys2Proof/Laws/Memory.lean ====
section
/-! SUPPORT. The laws of memory: a read after a write, a read after a clear, and that every memory operation keeps the canonical
form. -/

namespace Sys2Proof

/-! ## Reading -/

theorem Memory.read_eq_zero_of_not_listed (m : Memory) (a : Nat) (h : ∀ c ∈ m, c.1 ≠ a) : m.read a = 0#8 := by
  induction m with
  | nil => rfl
  | cons c m ih =>
    obtain ⟨k, v⟩ := c
    have hk : k ≠ a := h (k, v) (by simp)
    simp only [Memory.read, if_neg hk]
    exact ih (fun c hc => h c (by simp [hc]))

theorem Memory.read_append_of_not_left (m₁ m₂ : Memory) (a : Nat) (h : ∀ c ∈ m₁, c.1 ≠ a) :
    Memory.read (m₁ ++ m₂) a = m₂.read a := by
  induction m₁ with
  | nil => rfl
  | cons c m ih =>
    obtain ⟨k, v⟩ := c
    have hk : k ≠ a := h (k, v) (by simp)
    simp only [List.cons_append, Memory.read, if_neg hk]
    exact ih (fun c hc => h c (by simp [hc]))

theorem Memory.read_append_of_not_right (m₁ m₂ : Memory) (a : Nat) (h : ∀ c ∈ m₂, c.1 ≠ a) :
    Memory.read (m₁ ++ m₂) a = m₁.read a := by
  induction m₁ with
  | nil => exact Memory.read_eq_zero_of_not_listed m₂ a h
  | cons c m ih =>
    obtain ⟨k, v⟩ := c
    simp only [List.cons_append, Memory.read]
    split
    · rfl
    · exact ih

theorem Memory.read_filter (m : Memory) (q : Nat → Bool) (a : Nat) :
    Memory.read (m.filter (fun c => q c.1)) a = if q a then m.read a else 0#8 := by
  induction m with
  | nil => simp [Memory.read]
  | cons c m ih =>
    obtain ⟨k, v⟩ := c
    by_cases hk : k = a
    · subst hk
      by_cases hq : q k = true
      · simp [hq, Memory.read]
      · rw [List.filter_cons_of_neg (by simpa using hq), ih, if_neg hq, if_neg hq]
    · by_cases hq : q k = true
      · rw [List.filter_cons_of_pos (by simpa using hq)]
        simp only [Memory.read, if_neg hk]
        exact ih
      · rw [List.filter_cons_of_neg (by simpa using hq), ih]
        simp only [Memory.read, if_neg hk]

theorem Memory.cellsFrom_bounds (vs : List Byte) (off : Nat) :
    ∀ c ∈ Memory.cellsFrom off vs, off ≤ c.1 ∧ c.1 < off + vs.length := by
  induction vs generalizing off with
  | nil => simp [Memory.cellsFrom]
  | cons v vs ih =>
    intro c hc
    have ih' := ih (off + 1) c
    simp only [Memory.cellsFrom] at hc
    split at hc
    · have := ih' hc
      simp only [List.length_cons]; omega
    · rcases List.mem_cons.mp hc with rfl | hc
      · simp
      · have := ih' hc
        simp only [List.length_cons]; omega

theorem Memory.read_cellsFrom (vs : List Byte) (off a : Nat) :
    (Memory.cellsFrom off vs).read a = if off ≤ a ∧ a < off + vs.length then vs.getD (a - off) 0#8 else 0#8 := by
  induction vs generalizing off with
  | nil => simp [Memory.cellsFrom, Memory.read]
  | cons v vs ih =>
    by_cases ha : off = a
    · subst ha
      have h0 : (Memory.cellsFrom (off + 1) vs).read off = 0#8 :=
        Memory.read_eq_zero_of_not_listed _ _ (fun c hc => by have := Memory.cellsFrom_bounds vs (off + 1) c hc; omega)
      by_cases hv : v = 0#8
      · simp [Memory.cellsFrom, hv, h0]
      · simp [Memory.cellsFrom, hv, Memory.read]
    · have hcell : (Memory.cellsFrom off (v :: vs)).read a = (Memory.cellsFrom (off + 1) vs).read a := by
        by_cases hv : v = 0#8
        · simp [Memory.cellsFrom, hv]
        · simp [Memory.cellsFrom, hv, Memory.read, ha]
      rw [hcell, ih]
      by_cases h : off + 1 ≤ a ∧ a < off + 1 + vs.length
      · have h' : off ≤ a ∧ a < off + (v :: vs).length := by simp only [List.length_cons]; omega
        rw [if_pos h, if_pos h']
        obtain ⟨k, rfl⟩ : ∃ k, a = off + 1 + k := ⟨a - (off + 1), by omega⟩
        have e1 : off + 1 + k - (off + 1) = k := by omega
        have e2 : off + 1 + k - off = k + 1 := by omega
        rw [e1, e2]
        simp [List.getD_eq_getElem?_getD]
      · have h' : ¬(off ≤ a ∧ a < off + (v :: vs).length) := by simp only [List.length_cons]; omega
        rw [if_neg h, if_neg h']

/-- A read after a write: the written byte inside the written run, the old byte elsewhere. -/
theorem Memory.read_write (m : Memory) (off : Nat) (data : List Byte) (a : Nat) :
    (m.write off data).read a
      = if off ≤ a ∧ a < off + data.length then data.getD (a - off) 0#8 else m.read a := by
  have hlow : Memory.read (m.filter (fun c => decide (c.1 < off))) a = if a < off then m.read a else 0#8 := by
    simpa using Memory.read_filter m (fun k => decide (k < off)) a
  have hhigh : Memory.read (m.filter (fun c => decide (off + data.length ≤ c.1))) a
      = if off + data.length ≤ a then m.read a else 0#8 := by
    simpa using Memory.read_filter m (fun k => decide (off + data.length ≤ k)) a
  unfold Memory.write
  by_cases h1 : a < off
  · rw [Memory.read_append_of_not_right, hlow, if_pos h1, if_neg (by omega)]
    intro c hc
    rcases List.mem_append.mp hc with hc | hc
    · have := Memory.cellsFrom_bounds data off c hc; omega
    · have := (List.mem_filter.mp hc).2; simp at this; omega
  · have hnl : ∀ c ∈ m.filter (fun c => decide (c.1 < off)), c.1 ≠ a := fun c hc => by
      have := (List.mem_filter.mp hc).2; simp at this; omega
    rw [Memory.read_append_of_not_left _ _ _ hnl]
    by_cases h2 : a < off + data.length
    · rw [Memory.read_append_of_not_right, Memory.read_cellsFrom, if_pos (by omega), if_pos (by omega)]
      intro c hc
      have := (List.mem_filter.mp hc).2; simp at this; omega
    · rw [Memory.read_append_of_not_left, hhigh, if_pos (by omega), if_neg (by omega)]
      intro c hc
      have := Memory.cellsFrom_bounds data off c hc; omega

/-- A read after a clear: 0x00 inside the cleared run, the old byte elsewhere. -/
theorem Memory.read_clear (m : Memory) (off n a : Nat) :
    (m.clear off n).read a = if off ≤ a ∧ a < off + n then 0#8 else m.read a := by
  have hlow : Memory.read (m.filter (fun c => decide (c.1 < off))) a = if a < off then m.read a else 0#8 := by
    simpa using Memory.read_filter m (fun k => decide (k < off)) a
  have hhigh : Memory.read (m.filter (fun c => decide (off + n ≤ c.1))) a = if off + n ≤ a then m.read a else 0#8 := by
    simpa using Memory.read_filter m (fun k => decide (off + n ≤ k)) a
  unfold Memory.clear
  by_cases h1 : a < off
  · rw [Memory.read_append_of_not_right, hlow, if_pos h1, if_neg (by omega)]
    intro c hc
    have := (List.mem_filter.mp hc).2; simp at this; omega
  · rw [Memory.read_append_of_not_left, hhigh]
    · by_cases h2 : off + n ≤ a
      · rw [if_pos h2, if_neg (by omega)]
      · rw [if_neg h2, if_pos (by omega)]
    · intro c hc
      have := (List.mem_filter.mp hc).2; simp at this; omega

/-! ## The canonical form -/

theorem Memory.wfFrom_mono {lo lo' : Nat} {m : Memory} (h : Memory.wfFrom lo m = true) (hlo : lo' ≤ lo) :
    Memory.wfFrom lo' m = true := by
  cases m with
  | nil => rfl
  | cons c m =>
    obtain ⟨k, v⟩ := c
    simp only [Memory.wfFrom, Bool.and_eq_true, decide_eq_true_eq] at h ⊢
    exact ⟨⟨by omega, h.1.2⟩, h.2⟩

theorem Memory.wfFrom_filter {lo : Nat} {m : Memory} (q : Host.Cell → Bool) (h : Memory.wfFrom lo m = true) :
    Memory.wfFrom lo (m.filter q) = true := by
  induction m generalizing lo with
  | nil => rfl
  | cons c m ih =>
    obtain ⟨k, v⟩ := c
    simp only [Memory.wfFrom, Bool.and_eq_true, decide_eq_true_eq] at h
    by_cases hq : q (k, v) = true
    · rw [List.filter_cons_of_pos hq]
      simp only [Memory.wfFrom, Bool.and_eq_true, decide_eq_true_eq]
      exact ⟨h.1, ih h.2⟩
    · rw [List.filter_cons_of_neg hq]
      exact Memory.wfFrom_mono (ih h.2) (by omega)

theorem Memory.wfFrom_of_bound {lo b : Nat} {m : Memory} (h : Memory.wfFrom lo m = true) (hb : ∀ c ∈ m, b ≤ c.1) :
    Memory.wfFrom b m = true := by
  cases m with
  | nil => rfl
  | cons c m =>
    obtain ⟨k, v⟩ := c
    simp only [Memory.wfFrom, Bool.and_eq_true, decide_eq_true_eq] at h ⊢
    exact ⟨⟨hb (k, v) (by simp), h.1.2⟩, h.2⟩

theorem Memory.wfFrom_append {lo mid : Nat} {m₁ m₂ : Memory} (h₁ : Memory.wfFrom lo m₁ = true)
    (hb : ∀ c ∈ m₁, c.1 < mid) (hlo : lo ≤ mid) (h₂ : Memory.wfFrom mid m₂ = true) :
    Memory.wfFrom lo (m₁ ++ m₂) = true := by
  induction m₁ generalizing lo with
  | nil => exact Memory.wfFrom_mono h₂ hlo
  | cons c m ih =>
    obtain ⟨k, v⟩ := c
    simp only [Memory.wfFrom, Bool.and_eq_true, decide_eq_true_eq, List.cons_append] at h₁ ⊢
    have hk : k < mid := hb (k, v) (by simp)
    exact ⟨h₁.1, ih h₁.2 (fun c hc => hb c (by simp [hc])) (by omega)⟩

theorem Memory.wfFrom_cellsFrom (vs : List Byte) (off : Nat) : Memory.wfFrom off (Memory.cellsFrom off vs) = true := by
  induction vs generalizing off with
  | nil => rfl
  | cons v vs ih =>
    simp only [Memory.cellsFrom]
    split
    · exact Memory.wfFrom_mono (ih (off + 1)) (by omega)
    · simp only [Memory.wfFrom, Bool.and_eq_true, decide_eq_true_eq]
      exact ⟨⟨le_refl _, by assumption⟩, ih (off + 1)⟩

/-- A write keeps the canonical form. -/
theorem Memory.wf_write (m : Memory) (off : Nat) (data : List Byte) (h : m.wf = true) : (m.write off data).wf = true := by
  unfold Memory.wf Memory.write at *
  refine Memory.wfFrom_append (mid := off) (Memory.wfFrom_filter _ h) ?_ (Nat.zero_le _) ?_
  · intro c hc; have := (List.mem_filter.mp hc).2; simpa using this
  · refine Memory.wfFrom_append (mid := off + data.length) (Memory.wfFrom_cellsFrom _ _) ?_ (by omega) ?_
    · intro c hc; exact (Memory.cellsFrom_bounds data off c hc).2
    · refine Memory.wfFrom_of_bound (Memory.wfFrom_filter _ h) ?_
      intro c hc; have := (List.mem_filter.mp hc).2; simpa using this

/-- A clear keeps the canonical form. -/
theorem Memory.wf_clear (m : Memory) (off n : Nat) (h : m.wf = true) : (m.clear off n).wf = true := by
  unfold Memory.wf Memory.clear at *
  refine Memory.wfFrom_append (mid := off) (Memory.wfFrom_filter _ h) ?_ (Nat.zero_le _) ?_
  · intro c hc; have := (List.mem_filter.mp hc).2; simpa using this
  · refine Memory.wfFrom_of_bound (b := off + n) (Memory.wfFrom_filter _ h) ?_ |> fun h => Memory.wfFrom_mono h (by omega)
    intro c hc; have := (List.mem_filter.mp hc).2; simpa using this

/-! ## Byte sequences -/

@[simp] theorem ByteSeq.write_len (b : ByteSeq) (off : Nat) (data : List Byte) : (b.write off data).len = b.len := rfl
@[simp] theorem ByteSeq.clear_len (b : ByteSeq) (off n : Nat) : (b.clear off n).len = b.len := rfl
@[simp] theorem ByteSeq.zeros_len (n : Nat) : (ByteSeq.zeros n).len = n := rfl
@[simp] theorem ByteSeq.zeros_read (n a : Nat) : (ByteSeq.zeros n).read a = 0#8 := rfl
@[simp] theorem ByteSeq.slice_length (b : ByteSeq) (off n : Nat) : (b.slice off n).length = n := by simp [ByteSeq.slice]

theorem ByteSeq.read_write (b : ByteSeq) (off : Nat) (data : List Byte) (a : Nat) :
    (b.write off data).read a
      = if off ≤ a ∧ a < off + data.length then data.getD (a - off) 0#8 else b.read a :=
  Memory.read_write b.cells off data a

theorem ByteSeq.read_clear (b : ByteSeq) (off n a : Nat) :
    (b.clear off n).read a = if off ≤ a ∧ a < off + n then 0#8 else b.read a :=
  Memory.read_clear b.cells off n a

/-- Byte `k` of a slice is byte `off + k` of the sequence. -/
theorem ByteSeq.slice_getElem? (b : ByteSeq) (off n k : Nat) (hk : k < n) :
    (b.slice off n)[k]? = some (b.read (off + k)) := by
  simp [ByteSeq.slice, hk]

/-- Reading back a written run gives what was written. -/
theorem ByteSeq.slice_write (b : ByteSeq) (off : Nat) (data : List Byte) :
    (b.write off data).slice off data.length = data := by
  apply List.ext_getElem?
  intro k
  by_cases hk : k < data.length
  · rw [ByteSeq.slice_getElem? _ _ _ _ hk, ByteSeq.read_write, if_pos (by omega)]
    simp [List.getD_eq_getElem?_getD, hk]
  · simp [Nat.le_of_not_lt hk]

theorem ByteSeq.wf_iff (b : ByteSeq) : b.wf = true ↔ b.cells.wf = true ∧ ∀ c ∈ b.cells, c.1 < b.len := by
  simp [ByteSeq.wf]

theorem ByteSeq.wf_zeros (n : Nat) : (ByteSeq.zeros n).wf = true := rfl

/-- Writing inside the sequence keeps the canonical form. -/
theorem ByteSeq.wf_write (b : ByteSeq) (off : Nat) (data : List Byte) (h : b.wf = true)
    (hin : off + data.length ≤ b.len) : (b.write off data).wf = true := by
  rw [ByteSeq.wf_iff] at *
  refine ⟨Memory.wf_write _ _ _ h.1, fun c hc => ?_⟩
  simp only [ByteSeq.write, Memory.write, List.mem_append] at hc ⊢
  rcases hc with hc | hc | hc
  · exact h.2 c (List.mem_filter.mp hc).1
  · have := Memory.cellsFrom_bounds data off c hc; omega
  · exact h.2 c (List.mem_filter.mp hc).1

/-- Clearing keeps the canonical form. -/
theorem ByteSeq.wf_clear (b : ByteSeq) (off n : Nat) (h : b.wf = true) : (b.clear off n).wf = true := by
  rw [ByteSeq.wf_iff] at *
  refine ⟨Memory.wf_clear _ _ _ h.1, fun c hc => ?_⟩
  simp only [ByteSeq.clear, Memory.clear, List.mem_append] at hc ⊢
  rcases hc with hc | hc <;> exact h.2 c (List.mem_filter.mp hc).1

@[simp] theorem ByteSeq.replace_nil (b : ByteSeq) : b.replace [] = b := rfl
@[simp] theorem ByteSeq.replace_cons (b : ByteSeq) (c : Host.Cell) (cs : List Host.Cell) :
    b.replace (c :: cs) = (b.write c.1 [c.2]).replace cs := rfl

@[simp] theorem ByteSeq.replace_len (b : ByteSeq) (cs : List Host.Cell) : (b.replace cs).len = b.len := by
  induction cs generalizing b with
  | nil => rfl
  | cons c cs ih => simp [ih]

/-- Replacing bytes inside the sequence keeps the canonical form. -/
theorem ByteSeq.wf_replace (b : ByteSeq) (cs : List Host.Cell) (h : b.wf = true) (hin : ∀ c ∈ cs, c.1 < b.len) :
    (b.replace cs).wf = true := by
  induction cs generalizing b with
  | nil => exact h
  | cons c cs ih =>
    rw [ByteSeq.replace_cons]
    have hc := hin c (by simp)
    refine ih _ (ByteSeq.wf_write _ _ _ h (by simp only [List.length_cons, List.length_nil]; omega)) ?_
    intro x hx
    exact hin x (by simp [hx])

/-- A byte no listed offset names is not replaced. -/
theorem ByteSeq.read_replace_of_not_listed (b : ByteSeq) (cs : List Host.Cell) (a : Nat) (h : ∀ c ∈ cs, c.1 ≠ a) :
    (b.replace cs).read a = b.read a := by
  induction cs generalizing b with
  | nil => rfl
  | cons c cs ih =>
    have hc := h c (by simp)
    rw [ByteSeq.replace_cons, ih _ (fun x hx => h x (by simp [hx])), ByteSeq.read_write, if_neg]
    simp only [List.length_cons, List.length_nil]; omega

end Sys2Proof
end

