-- ==== Sys2Proof/Laws/State.lean ====
section
/-! SUPPORT. One lemma per field per shared update of the state, so that no later proof unfolds a record update. -/

namespace Sys2Proof.Machine

/-! ## The reset state, field by field (the buffer by its length and its bytes) -/

@[simp] theorem reset_command : State.reset.command = 0x00#8 := rfl
@[simp] theorem reset_status : State.reset.status = 0x00#8 := rfl
@[simp] theorem reset_data : State.reset.data = 0x00#8 := rfl
@[simp] theorem reset_driveSelect : State.reset.driveSelect = 0x00#8 := rfl
@[simp] theorem reset_track : State.reset.track = 0x00#8 := rfl
@[simp] theorem reset_sector : State.reset.sector = 0x00#8 := rfl
@[simp] theorem reset_dmaAddrLow : State.reset.dmaAddrLow = 0x00#8 := rfl
@[simp] theorem reset_dmaAddrHigh : State.reset.dmaAddrHigh = 0x00#8 := rfl
@[simp] theorem reset_dmaCount : State.reset.dmaCount = 0x00#8 := rfl
@[simp] theorem reset_control : State.reset.control = 0x00#8 := rfl
@[simp] theorem reset_wrDrive : State.reset.wrDrive = 0x00#8 := rfl
@[simp] theorem reset_wrTrack : State.reset.wrTrack = 0x00#8 := rfl
@[simp] theorem reset_wrSector : State.reset.wrSector = 0x00#8 := rfl
@[simp] theorem reset_phase : State.reset.phase = .idle := rfl
@[simp] theorem reset_xferIdx : State.reset.xferIdx = 0 := rfl
@[simp] theorem reset_xferLimit : State.reset.xferLimit = 512 := rfl
@[simp] theorem reset_rdActive : State.reset.rdActive = false := rfl
@[simp] theorem reset_pend : State.reset.pend = none := rfl
@[simp] theorem reset_irqPending : State.reset.irqPending = false := rfl
@[simp] theorem reset_seekDone : State.reset.seekDone = false := rfl
@[simp] theorem reset_crcErr : State.reset.crcErr = false := rfl
@[simp] theorem reset_slotA : State.reset.slotA = none := rfl
@[simp] theorem reset_slotB : State.reset.slotB = none := rfl
@[simp] theorem reset_cfg : State.reset.cfg = Config.Params.default := rfl
@[simp] theorem reset_inbox : State.reset.inbox = [] := rfl
@[simp] theorem reset_result : State.reset.result = .none := rfl
@[simp] theorem reset_freeIdx : State.reset.freeIdx = 0 := rfl
@[simp] theorem reset_buf_length : State.reset.buf.length = 512 := List.length_replicate
theorem reset_buf_getElem? (k : Nat) (h : k < 512) : State.reset.buf[k]? = some 0x00#8 := List.getElem?_replicate_of_lt h

/-! ## `State.setSlot` -/

@[simp] theorem setSlot_command (s : State) (d : Drive) (x : Option Slot) : (s.setSlot d x).command = s.command := by cases d <;> rfl
@[simp] theorem setSlot_status (s : State) (d : Drive) (x : Option Slot) : (s.setSlot d x).status = s.status := by cases d <;> rfl
@[simp] theorem setSlot_data (s : State) (d : Drive) (x : Option Slot) : (s.setSlot d x).data = s.data := by cases d <;> rfl
@[simp] theorem setSlot_driveSelect (s : State) (d : Drive) (x : Option Slot) : (s.setSlot d x).driveSelect = s.driveSelect := by cases d <;> rfl
@[simp] theorem setSlot_track (s : State) (d : Drive) (x : Option Slot) : (s.setSlot d x).track = s.track := by cases d <;> rfl
@[simp] theorem setSlot_sector (s : State) (d : Drive) (x : Option Slot) : (s.setSlot d x).sector = s.sector := by cases d <;> rfl
@[simp] theorem setSlot_dmaAddrLow (s : State) (d : Drive) (x : Option Slot) : (s.setSlot d x).dmaAddrLow = s.dmaAddrLow := by cases d <;> rfl
@[simp] theorem setSlot_dmaAddrHigh (s : State) (d : Drive) (x : Option Slot) : (s.setSlot d x).dmaAddrHigh = s.dmaAddrHigh := by cases d <;> rfl
@[simp] theorem setSlot_dmaCount (s : State) (d : Drive) (x : Option Slot) : (s.setSlot d x).dmaCount = s.dmaCount := by cases d <;> rfl
@[simp] theorem setSlot_control (s : State) (d : Drive) (x : Option Slot) : (s.setSlot d x).control = s.control := by cases d <;> rfl
@[simp] theorem setSlot_pad (s : State) (d : Drive) (x : Option Slot) : (s.setSlot d x).pad = s.pad := by cases d <;> rfl
@[simp] theorem setSlot_phase (s : State) (d : Drive) (x : Option Slot) : (s.setSlot d x).phase = s.phase := by cases d <;> rfl
@[simp] theorem setSlot_buf (s : State) (d : Drive) (x : Option Slot) : (s.setSlot d x).buf = s.buf := by cases d <;> rfl
@[simp] theorem setSlot_xferIdx (s : State) (d : Drive) (x : Option Slot) : (s.setSlot d x).xferIdx = s.xferIdx := by cases d <;> rfl
@[simp] theorem setSlot_xferLimit (s : State) (d : Drive) (x : Option Slot) : (s.setSlot d x).xferLimit = s.xferLimit := by cases d <;> rfl
@[simp] theorem setSlot_rdActive (s : State) (d : Drive) (x : Option Slot) : (s.setSlot d x).rdActive = s.rdActive := by cases d <;> rfl
@[simp] theorem setSlot_wrDrive (s : State) (d : Drive) (x : Option Slot) : (s.setSlot d x).wrDrive = s.wrDrive := by cases d <;> rfl
@[simp] theorem setSlot_wrTrack (s : State) (d : Drive) (x : Option Slot) : (s.setSlot d x).wrTrack = s.wrTrack := by cases d <;> rfl
@[simp] theorem setSlot_wrSector (s : State) (d : Drive) (x : Option Slot) : (s.setSlot d x).wrSector = s.wrSector := by cases d <;> rfl
@[simp] theorem setSlot_pend (s : State) (d : Drive) (x : Option Slot) : (s.setSlot d x).pend = s.pend := by cases d <;> rfl
@[simp] theorem setSlot_irqPending (s : State) (d : Drive) (x : Option Slot) : (s.setSlot d x).irqPending = s.irqPending := by cases d <;> rfl
@[simp] theorem setSlot_seekDone (s : State) (d : Drive) (x : Option Slot) : (s.setSlot d x).seekDone = s.seekDone := by cases d <;> rfl
@[simp] theorem setSlot_crcErr (s : State) (d : Drive) (x : Option Slot) : (s.setSlot d x).crcErr = s.crcErr := by cases d <;> rfl
@[simp] theorem setSlot_cfg (s : State) (d : Drive) (x : Option Slot) : (s.setSlot d x).cfg = s.cfg := by cases d <;> rfl
@[simp] theorem setSlot_inbox (s : State) (d : Drive) (x : Option Slot) : (s.setSlot d x).inbox = s.inbox := by cases d <;> rfl
@[simp] theorem setSlot_result (s : State) (d : Drive) (x : Option Slot) : (s.setSlot d x).result = s.result := by cases d <;> rfl
@[simp] theorem setSlot_freeIdx (s : State) (d : Drive) (x : Option Slot) : (s.setSlot d x).freeIdx = s.freeIdx := by cases d <;> rfl

@[simp] theorem setSlot_slot_same (s : State) (d : Drive) (x : Option Slot) : (s.setSlot d x).slot d = x := by cases d <;> rfl
theorem setSlot_slot_other (s : State) (d d' : Drive) (x : Option Slot) (h : d' ≠ d) : (s.setSlot d x).slot d' = s.slot d' := by
  cases d <;> cases d' <;> first | rfl | exact absurd rfl h
theorem setSlot_slot (s : State) (d d' : Drive) (x : Option Slot) :
    (s.setSlot d x).slot d' = if d' = d then x else s.slot d' := by
  by_cases h : d' = d
  · subst h; simp
  · simp [h, setSlot_slot_other]

@[simp] theorem slotOf_none (s : State) : s.slotOf none = none := rfl
@[simp] theorem slotOf_some (s : State) (d : Drive) : s.slotOf (some d) = s.slot d := rfl
theorem slotOf_eq_some {s : State} {d : Option Drive} {sl : Slot} (h : s.slotOf d = some sl) :
    ∃ e, d = some e ∧ s.slot e = some sl := by
  cases d with
  | none => simp at h
  | some e => exact ⟨e, rfl, h⟩

/-! ## `State.storeImage` -/

@[simp] theorem storeImage_some (s : State) (d : Drive) (img : ByteSeq) :
    s.storeImage (some d) img = s.setSlot d (some ⟨img, true⟩) := rfl
@[simp] theorem storeImage_command (s : State) (d : Option Drive) (img : ByteSeq) : (s.storeImage d img).command = s.command := by cases d <;> simp [State.storeImage]
@[simp] theorem storeImage_status (s : State) (d : Option Drive) (img : ByteSeq) : (s.storeImage d img).status = s.status := by cases d <;> simp [State.storeImage]
@[simp] theorem storeImage_data (s : State) (d : Option Drive) (img : ByteSeq) : (s.storeImage d img).data = s.data := by cases d <;> simp [State.storeImage]
@[simp] theorem storeImage_driveSelect (s : State) (d : Option Drive) (img : ByteSeq) : (s.storeImage d img).driveSelect = s.driveSelect := by cases d <;> simp [State.storeImage]
@[simp] theorem storeImage_track (s : State) (d : Option Drive) (img : ByteSeq) : (s.storeImage d img).track = s.track := by cases d <;> simp [State.storeImage]
@[simp] theorem storeImage_sector (s : State) (d : Option Drive) (img : ByteSeq) : (s.storeImage d img).sector = s.sector := by cases d <;> simp [State.storeImage]
@[simp] theorem storeImage_dmaAddrLow (s : State) (d : Option Drive) (img : ByteSeq) : (s.storeImage d img).dmaAddrLow = s.dmaAddrLow := by cases d <;> simp [State.storeImage]
@[simp] theorem storeImage_dmaAddrHigh (s : State) (d : Option Drive) (img : ByteSeq) : (s.storeImage d img).dmaAddrHigh = s.dmaAddrHigh := by cases d <;> simp [State.storeImage]
@[simp] theorem storeImage_dmaCount (s : State) (d : Option Drive) (img : ByteSeq) : (s.storeImage d img).dmaCount = s.dmaCount := by cases d <;> simp [State.storeImage]
@[simp] theorem storeImage_control (s : State) (d : Option Drive) (img : ByteSeq) : (s.storeImage d img).control = s.control := by cases d <;> simp [State.storeImage]
@[simp] theorem storeImage_pad (s : State) (d : Option Drive) (img : ByteSeq) : (s.storeImage d img).pad = s.pad := by cases d <;> simp [State.storeImage]
@[simp] theorem storeImage_phase (s : State) (d : Option Drive) (img : ByteSeq) : (s.storeImage d img).phase = s.phase := by cases d <;> simp [State.storeImage]
@[simp] theorem storeImage_buf (s : State) (d : Option Drive) (img : ByteSeq) : (s.storeImage d img).buf = s.buf := by cases d <;> simp [State.storeImage]
@[simp] theorem storeImage_xferIdx (s : State) (d : Option Drive) (img : ByteSeq) : (s.storeImage d img).xferIdx = s.xferIdx := by cases d <;> simp [State.storeImage]
@[simp] theorem storeImage_xferLimit (s : State) (d : Option Drive) (img : ByteSeq) : (s.storeImage d img).xferLimit = s.xferLimit := by cases d <;> simp [State.storeImage]
@[simp] theorem storeImage_rdActive (s : State) (d : Option Drive) (img : ByteSeq) : (s.storeImage d img).rdActive = s.rdActive := by cases d <;> simp [State.storeImage]
@[simp] theorem storeImage_wrDrive (s : State) (d : Option Drive) (img : ByteSeq) : (s.storeImage d img).wrDrive = s.wrDrive := by cases d <;> simp [State.storeImage]
@[simp] theorem storeImage_wrTrack (s : State) (d : Option Drive) (img : ByteSeq) : (s.storeImage d img).wrTrack = s.wrTrack := by cases d <;> simp [State.storeImage]
@[simp] theorem storeImage_wrSector (s : State) (d : Option Drive) (img : ByteSeq) : (s.storeImage d img).wrSector = s.wrSector := by cases d <;> simp [State.storeImage]
@[simp] theorem storeImage_pend (s : State) (d : Option Drive) (img : ByteSeq) : (s.storeImage d img).pend = s.pend := by cases d <;> simp [State.storeImage]
@[simp] theorem storeImage_irqPending (s : State) (d : Option Drive) (img : ByteSeq) : (s.storeImage d img).irqPending = s.irqPending := by cases d <;> simp [State.storeImage]
@[simp] theorem storeImage_seekDone (s : State) (d : Option Drive) (img : ByteSeq) : (s.storeImage d img).seekDone = s.seekDone := by cases d <;> simp [State.storeImage]
@[simp] theorem storeImage_crcErr (s : State) (d : Option Drive) (img : ByteSeq) : (s.storeImage d img).crcErr = s.crcErr := by cases d <;> simp [State.storeImage]
@[simp] theorem storeImage_cfg (s : State) (d : Option Drive) (img : ByteSeq) : (s.storeImage d img).cfg = s.cfg := by cases d <;> simp [State.storeImage]
@[simp] theorem storeImage_inbox (s : State) (d : Option Drive) (img : ByteSeq) : (s.storeImage d img).inbox = s.inbox := by cases d <;> simp [State.storeImage]
@[simp] theorem storeImage_result (s : State) (d : Option Drive) (img : ByteSeq) : (s.storeImage d img).result = s.result := by cases d <;> simp [State.storeImage]
@[simp] theorem storeImage_freeIdx (s : State) (d : Option Drive) (img : ByteSeq) : (s.storeImage d img).freeIdx = s.freeIdx := by cases d <;> simp [State.storeImage]

/-! ## `complete` -/

@[simp] theorem complete_command (c : StatusCode) (s : State) : (complete c s).command = s.command := rfl
@[simp] theorem complete_status (c : StatusCode) (s : State) : (complete c s).status = c.toByte := rfl
@[simp] theorem complete_data (c : StatusCode) (s : State) : (complete c s).data = s.data := rfl
@[simp] theorem complete_driveSelect (c : StatusCode) (s : State) : (complete c s).driveSelect = s.driveSelect := rfl
@[simp] theorem complete_track (c : StatusCode) (s : State) : (complete c s).track = s.track := rfl
@[simp] theorem complete_sector (c : StatusCode) (s : State) : (complete c s).sector = s.sector := rfl
@[simp] theorem complete_dmaAddrLow (c : StatusCode) (s : State) : (complete c s).dmaAddrLow = s.dmaAddrLow := rfl
@[simp] theorem complete_dmaAddrHigh (c : StatusCode) (s : State) : (complete c s).dmaAddrHigh = s.dmaAddrHigh := rfl
@[simp] theorem complete_dmaCount (c : StatusCode) (s : State) : (complete c s).dmaCount = s.dmaCount := rfl
@[simp] theorem complete_control (c : StatusCode) (s : State) : (complete c s).control = s.control := rfl
@[simp] theorem complete_pad (c : StatusCode) (s : State) : (complete c s).pad = s.pad := rfl
@[simp] theorem complete_phase (c : StatusCode) (s : State) : (complete c s).phase = .idle := rfl
@[simp] theorem complete_buf (c : StatusCode) (s : State) : (complete c s).buf = s.buf := rfl
@[simp] theorem complete_xferIdx (c : StatusCode) (s : State) : (complete c s).xferIdx = s.xferIdx := rfl
@[simp] theorem complete_xferLimit (c : StatusCode) (s : State) : (complete c s).xferLimit = s.xferLimit := rfl
@[simp] theorem complete_rdActive (c : StatusCode) (s : State) : (complete c s).rdActive = s.rdActive := rfl
@[simp] theorem complete_wrDrive (c : StatusCode) (s : State) : (complete c s).wrDrive = s.wrDrive := rfl
@[simp] theorem complete_wrTrack (c : StatusCode) (s : State) : (complete c s).wrTrack = s.wrTrack := rfl
@[simp] theorem complete_wrSector (c : StatusCode) (s : State) : (complete c s).wrSector = s.wrSector := rfl
@[simp] theorem complete_pend (c : StatusCode) (s : State) : (complete c s).pend = s.pend := rfl
@[simp] theorem complete_irqPending (c : StatusCode) (s : State) : (complete c s).irqPending = (if c = .ok then true else s.irqPending) := rfl
@[simp] theorem complete_seekDone (c : StatusCode) (s : State) : (complete c s).seekDone = s.seekDone := rfl
@[simp] theorem complete_crcErr (c : StatusCode) (s : State) : (complete c s).crcErr = s.crcErr := rfl
@[simp] theorem complete_slotA (c : StatusCode) (s : State) : (complete c s).slotA = s.slotA := rfl
@[simp] theorem complete_slotB (c : StatusCode) (s : State) : (complete c s).slotB = s.slotB := rfl
@[simp] theorem complete_cfg (c : StatusCode) (s : State) : (complete c s).cfg = s.cfg := rfl
@[simp] theorem complete_inbox (c : StatusCode) (s : State) : (complete c s).inbox = s.inbox := rfl
@[simp] theorem complete_result (c : StatusCode) (s : State) : (complete c s).result = s.result := rfl
@[simp] theorem complete_freeIdx (c : StatusCode) (s : State) : (complete c s).freeIdx = s.freeIdx := rfl

/-! ## `accept` -/

@[simp] theorem accept_command (v : Byte) (s : State) : (accept v s).command = v := rfl
@[simp] theorem accept_status (v : Byte) (s : State) : (accept v s).status = busyByte s.cfg := rfl
@[simp] theorem accept_data (v : Byte) (s : State) : (accept v s).data = s.data := rfl
@[simp] theorem accept_driveSelect (v : Byte) (s : State) : (accept v s).driveSelect = s.driveSelect := rfl
@[simp] theorem accept_track (v : Byte) (s : State) : (accept v s).track = s.track := rfl
@[simp] theorem accept_sector (v : Byte) (s : State) : (accept v s).sector = s.sector := rfl
@[simp] theorem accept_dmaAddrLow (v : Byte) (s : State) : (accept v s).dmaAddrLow = s.dmaAddrLow := rfl
@[simp] theorem accept_dmaAddrHigh (v : Byte) (s : State) : (accept v s).dmaAddrHigh = s.dmaAddrHigh := rfl
@[simp] theorem accept_dmaCount (v : Byte) (s : State) : (accept v s).dmaCount = s.dmaCount := rfl
@[simp] theorem accept_control (v : Byte) (s : State) : (accept v s).control = s.control := rfl
@[simp] theorem accept_pad (v : Byte) (s : State) : (accept v s).pad = s.pad := rfl
@[simp] theorem accept_phase (v : Byte) (s : State) : (accept v s).phase = s.phase := rfl
@[simp] theorem accept_buf (v : Byte) (s : State) : (accept v s).buf = s.buf := rfl
@[simp] theorem accept_xferIdx (v : Byte) (s : State) : (accept v s).xferIdx = s.xferIdx := rfl
@[simp] theorem accept_xferLimit (v : Byte) (s : State) : (accept v s).xferLimit = s.xferLimit := rfl
@[simp] theorem accept_rdActive (v : Byte) (s : State) : (accept v s).rdActive = false := rfl
@[simp] theorem accept_wrDrive (v : Byte) (s : State) : (accept v s).wrDrive = s.wrDrive := rfl
@[simp] theorem accept_wrTrack (v : Byte) (s : State) : (accept v s).wrTrack = s.wrTrack := rfl
@[simp] theorem accept_wrSector (v : Byte) (s : State) : (accept v s).wrSector = s.wrSector := rfl
@[simp] theorem accept_pend (v : Byte) (s : State) : (accept v s).pend = s.pend := rfl
@[simp] theorem accept_irqPending (v : Byte) (s : State) : (accept v s).irqPending = s.irqPending := rfl
@[simp] theorem accept_seekDone (v : Byte) (s : State) : (accept v s).seekDone = s.seekDone := rfl
@[simp] theorem accept_crcErr (v : Byte) (s : State) : (accept v s).crcErr = s.crcErr := rfl
@[simp] theorem accept_slotA (v : Byte) (s : State) : (accept v s).slotA = s.slotA := rfl
@[simp] theorem accept_slotB (v : Byte) (s : State) : (accept v s).slotB = s.slotB := rfl
@[simp] theorem accept_cfg (v : Byte) (s : State) : (accept v s).cfg = s.cfg := rfl
@[simp] theorem accept_inbox (v : Byte) (s : State) : (accept v s).inbox = s.inbox := rfl
@[simp] theorem accept_result (v : Byte) (s : State) : (accept v s).result = s.result := rfl
@[simp] theorem accept_freeIdx (v : Byte) (s : State) : (accept v s).freeIdx = s.freeIdx := rfl

/-! ## `feedByte` -/

@[simp] theorem feedByte_command (v : Byte) (s : State) : (feedByte v s).command = s.command := rfl
@[simp] theorem feedByte_status (v : Byte) (s : State) : (feedByte v s).status = s.status := rfl
@[simp] theorem feedByte_data (v : Byte) (s : State) : (feedByte v s).data = v := rfl
@[simp] theorem feedByte_driveSelect (v : Byte) (s : State) : (feedByte v s).driveSelect = s.driveSelect := rfl
@[simp] theorem feedByte_track (v : Byte) (s : State) : (feedByte v s).track = s.track := rfl
@[simp] theorem feedByte_sector (v : Byte) (s : State) : (feedByte v s).sector = s.sector := rfl
@[simp] theorem feedByte_dmaAddrLow (v : Byte) (s : State) : (feedByte v s).dmaAddrLow = s.dmaAddrLow := rfl
@[simp] theorem feedByte_dmaAddrHigh (v : Byte) (s : State) : (feedByte v s).dmaAddrHigh = s.dmaAddrHigh := rfl
@[simp] theorem feedByte_dmaCount (v : Byte) (s : State) : (feedByte v s).dmaCount = s.dmaCount := rfl
@[simp] theorem feedByte_control (v : Byte) (s : State) : (feedByte v s).control = s.control := rfl
@[simp] theorem feedByte_pad (v : Byte) (s : State) : (feedByte v s).pad = s.pad := rfl
@[simp] theorem feedByte_phase (v : Byte) (s : State) : (feedByte v s).phase = s.phase := rfl
@[simp] theorem feedByte_buf (v : Byte) (s : State) : (feedByte v s).buf = s.buf.set s.xferIdx v := rfl
@[simp] theorem feedByte_xferIdx (v : Byte) (s : State) : (feedByte v s).xferIdx = s.xferIdx + 1 := rfl
@[simp] theorem feedByte_xferLimit (v : Byte) (s : State) : (feedByte v s).xferLimit = s.xferLimit := rfl
@[simp] theorem feedByte_rdActive (v : Byte) (s : State) : (feedByte v s).rdActive = s.rdActive := rfl
@[simp] theorem feedByte_wrDrive (v : Byte) (s : State) : (feedByte v s).wrDrive = s.wrDrive := rfl
@[simp] theorem feedByte_wrTrack (v : Byte) (s : State) : (feedByte v s).wrTrack = s.wrTrack := rfl
@[simp] theorem feedByte_wrSector (v : Byte) (s : State) : (feedByte v s).wrSector = s.wrSector := rfl
@[simp] theorem feedByte_pend (v : Byte) (s : State) : (feedByte v s).pend = s.pend := rfl
@[simp] theorem feedByte_irqPending (v : Byte) (s : State) : (feedByte v s).irqPending = s.irqPending := rfl
@[simp] theorem feedByte_seekDone (v : Byte) (s : State) : (feedByte v s).seekDone = s.seekDone := rfl
@[simp] theorem feedByte_crcErr (v : Byte) (s : State) : (feedByte v s).crcErr = s.crcErr := rfl
@[simp] theorem feedByte_slotA (v : Byte) (s : State) : (feedByte v s).slotA = s.slotA := rfl
@[simp] theorem feedByte_slotB (v : Byte) (s : State) : (feedByte v s).slotB = s.slotB := rfl
@[simp] theorem feedByte_cfg (v : Byte) (s : State) : (feedByte v s).cfg = s.cfg := rfl
@[simp] theorem feedByte_inbox (v : Byte) (s : State) : (feedByte v s).inbox = s.inbox := rfl
@[simp] theorem feedByte_result (v : Byte) (s : State) : (feedByte v s).result = s.result := rfl
@[simp] theorem feedByte_freeIdx (v : Byte) (s : State) : (feedByte v s).freeIdx = s.freeIdx := rfl

/-! ## Slots through the updates -/

@[simp] theorem complete_slot (c : StatusCode) (s : State) (d : Drive) : (complete c s).slot d = s.slot d := by cases d <;> rfl
@[simp] theorem accept_slot (v : Byte) (s : State) (d : Drive) : (accept v s).slot d = s.slot d := by cases d <;> rfl
@[simp] theorem feedByte_slot (v : Byte) (s : State) (d : Drive) : (feedByte v s).slot d = s.slot d := by cases d <;> rfl
@[simp] theorem complete_slotOf (c : StatusCode) (s : State) (d : Option Drive) : (complete c s).slotOf d = s.slotOf d := by
  cases d <;> simp [State.slotOf]
@[simp] theorem accept_slotOf (v : Byte) (s : State) (d : Option Drive) : (accept v s).slotOf d = s.slotOf d := by
  cases d <;> simp [State.slotOf]
@[simp] theorem feedByte_slotOf (v : Byte) (s : State) (d : Option Drive) : (feedByte v s).slotOf d = s.slotOf d := by
  cases d <;> simp [State.slotOf]

/-! ## Image bytes -/

theorem imgByte_eq (s : State) (d : Drive) (a : Nat) : s.imgByte d a = (s.slot d).bind (fun sl => sl.img.byte? a) := rfl

/-- States with the same slots have the same images. -/
theorem sameImages_of_slots {s t : State} (hA : t.slotA = s.slotA) (hB : t.slotB = s.slotB) : SameImages s t := by
  intro d a
  cases d <;> simp [State.imgByte, State.slot, hA, hB]

/-- A slot is well formed when its image is canonical and has one of the two lengths. -/
theorem Slot.wf_iff (sl : Slot) : sl.wf = true ↔ sl.img.wf = true ∧ (sl.img.len = 368640 ∨ sl.img.len = 737280) := by
  simp only [Slot.wf, Bool.and_eq_true, Bool.or_eq_true, decide_eq_true_eq]

/-- The memory of the reset state is in canonical form. -/
theorem reset_memWf : State.reset.memWf = true := rfl

theorem memWf_iff (s : State) : s.memWf = true ↔ ∀ d sl, s.slot d = some sl → sl.wf = true := by
  constructor
  · intro h d sl hs
    simp only [State.memWf, Bool.and_eq_true] at h
    cases d <;> simp only [State.slot] at hs <;> simp_all
  · intro h
    have hA := h .A
    have hB := h .B
    simp only [State.slot] at hA hB
    simp only [State.memWf, Bool.and_eq_true]
    constructor
    · split
      · rfl
      · exact hA _ (by assumption)
    · split
      · rfl
      · exact hB _ (by assumption)

end Sys2Proof.Machine
end

