-- ==== Sys2Proof/Laws/Ops.lean ====
section
/-! SUPPORT. One lemma per shared operation that says what it can do; the provers cite these instead of unfolding. -/

namespace Sys2Proof.Machine

/-- What answering gives. -/
@[simp] theorem answer_eq (r : Result) (s : State) : answer r s = .next { s with result := r } := rfl

theorem answer_next_iff {r : Result} {s t : State} : answer r s = .next t ↔ { s with result := r } = t := by
  simp [answer]

/-! ## The translator and the address resolution -/

/-- A valid address translates (R141). -/
theorem p2l_of_inRange {t n : Nat} (h : InRange t n) : p2l t n = .ok (t * 9 + (n - 1)) := by
  obtain ⟨h1, h2, h3⟩ := h
  exact if_neg (by omega)

/-- An invalid address fails (R141, R143). -/
theorem p2l_of_not_inRange {t n : Nat} (h : ¬InRange t n) : p2l t n = .error .outOfBounds := by
  unfold InRange at h
  exact if_pos (by omega)

/-- The translator answers an index below 360, or fails. -/
theorem p2l_cases (t n : Nat) :
    (InRange t n ∧ p2l t n = .ok (t * 9 + (n - 1)) ∧ t * 9 + (n - 1) ≤ 359) ∨ (¬InRange t n ∧ p2l t n = .error .outOfBounds) := by
  by_cases h : InRange t n
  · exact .inl ⟨h, p2l_of_inRange h, by obtain ⟨h1, h2, h3⟩ := h; omega⟩
  · exact .inr ⟨h, p2l_of_not_inRange h⟩

/-- The start of a sector or track on an image, and its bound: an offset that is resolved is `base + l*512` with `l ≤ 359` and
`base` 0, or `SIDE1_OFFSET` on a 737,280-byte image. -/
theorem locateIn_cases (p : Config.Params) (img : ByteSeq) (t n : Nat) :
    (∃ base l, locateIn p img t n = .ok (base + l * 512) ∧ l ≤ 359 ∧ (l % 9) + 1 = n
        ∧ (base = 0 ∨ (base = side1Offset p.side1 ∧ img.len = Config.img720K)))
      ∨ locateIn p img t n = .error .outOfBounds := by
  have hmod : ∀ t, InRange t n → (t * 9 + (n - 1)) % 9 + 1 = n := by
    intro t h; obtain ⟨_, h2, h3⟩ := h; omega
  unfold locateIn
  split
  · rename_i h
    rcases p2l_cases (t - 40) n with ⟨hr, he, hl⟩ | ⟨_, he⟩
    · refine .inl ⟨side1Offset p.side1, _, ?_, hl, hmod _ hr, .inr ⟨rfl, by simpa [twoSided] using h.1⟩⟩
      rw [he]; rfl
    · exact .inr (by rw [he]; rfl)
  · rcases p2l_cases t n with ⟨hr, he, hl⟩ | ⟨_, he⟩
    · refine .inl ⟨0, _, ?_, hl, hmod _ hr, .inl rfl⟩
      rw [he]; simp [Except.map, sectorOffset]
    · exact .inr (by rw [he]; rfl)

theorem side1Offset_le (x : Config.Side1) : side1Offset x ≤ 368640 := by cases x <;> decide

/-- A resolved sector lies inside a mounted image (R163: the offset plus 512 never exceeds the length). -/
theorem locateIn_bound {p : Config.Params} {sl : Slot} {t n off : Nat} (hwf : sl.wf = true)
    (h : locateIn p sl.img t n = .ok off) : off + 512 ≤ sl.img.len := by
  have hlen : sl.img.len = 368640 ∨ sl.img.len = 737280 := by simpa [Slot.wf, Bool.and_eq_true] using And.right (by simpa [Slot.wf] using hwf)
  rcases locateIn_cases p sl.img t n with ⟨base, l, he, hl, _, hb⟩ | he
  · rw [he] at h
    cases h
    have := side1Offset_le p.side1
    rcases hb with hb | ⟨hb, hL⟩
    · omega
    · rw [hL]; show _ ≤ 737280; omega
  · rw [he] at h; cases h

/-- A resolved track start, with its nine sectors, lies inside a mounted image (R166). -/
theorem locateIn_track_bound {p : Config.Params} {sl : Slot} {t off : Nat} (hwf : sl.wf = true)
    (h : locateIn p sl.img t 1 = .ok off) : off + 4608 ≤ sl.img.len := by
  have hlen : sl.img.len = 368640 ∨ sl.img.len = 737280 := by simpa [Slot.wf, Bool.and_eq_true] using And.right (by simpa [Slot.wf] using hwf)
  rcases locateIn_cases p sl.img t 1 with ⟨base, l, he, hl, hm, hb⟩ | he
  · rw [he] at h
    cases h
    have := side1Offset_le p.side1
    rcases hb with hb | ⟨hb, hL⟩
    · omega
    · rw [hL]; show _ ≤ 737280; omega
  · rw [he] at h; cases h

/-! ## Frames of image updates -/

theorem sameBytesOutside_clear (b : ByteSeq) (off n : Nat) : SameBytesOutside b (b.clear off n) off n :=
  ⟨rfl, fun a ha => by rw [ByteSeq.read_clear, if_neg (by omega)]⟩

theorem holdsAt_clear (b : ByteSeq) (off n : Nat) : HoldsAt (b.clear off n) off (List.replicate n 0x00#8) := by
  intro k v hk
  rw [List.getElem?_replicate] at hk
  split at hk
  · cases hk
    rw [ByteSeq.read_clear, if_pos (by omega)]
  · cases hk

theorem sameBytesOutside_write {b : ByteSeq} {off n : Nat} {data : List Byte} (hn : data.length = n) :
    SameBytesOutside b (b.write off data) off n :=
  ⟨rfl, fun a ha => by rw [ByteSeq.read_write, if_neg (by omega)]⟩

theorem holdsAt_write (b : ByteSeq) (off : Nat) (data : List Byte) : HoldsAt (b.write off data) off data := by
  intro k v hk
  have := (List.getElem?_eq_some_iff.mp hk).1
  rw [ByteSeq.read_write, if_pos (by omega)]
  simp [List.getD_eq_getElem?_getD, hk]

/-- A slot whose image changes only inside a run, the other slot unchanged: image memory changes only inside the run. -/
theorem sameImagesOutside_of_slot {s t : State} {e : Drive} {sl : Slot} {img : ByteSeq} {dirty : Bool} {off n : Nat}
    (hs : s.slot e = some sl) (ht : ∀ d, t.slot d = if d = e then some ⟨img, dirty⟩ else s.slot d)
    (h : SameBytesOutside sl.img img off n) : SameImagesOutside s t e off n := by
  intro d a ha
  simp only [State.imgByte, ht]
  by_cases hd : d = e
  · subst hd
    simp only [if_true, hs, Option.bind_some, ByteSeq.byte?, h.1]
    rw [h.2 a (by simpa using ha)]
  · simp [hd]

/-! ## The slot level -/

/-- Everything `arbWrite` can do (R165). -/
theorem arbWrite_cases (s : State) (d : Option Drive) (t n : Nat) (data : List Byte) :
    (s.slotOf d = none ∧ arbWrite s d t n data = .error .notReady)
      ∨ (∃ e sl, d = some e ∧ s.slot e = some sl ∧ locateIn s.cfg sl.img t n = .error .outOfBounds
          ∧ arbWrite s d t n data = .error .outOfBounds)
      ∨ (∃ e sl off, d = some e ∧ s.slot e = some sl ∧ locateIn s.cfg sl.img t n = .ok off
          ∧ arbWrite s d t n data = .ok (s.setSlot e (some ⟨sl.img.write off data, true⟩))) := by
  cases d with
  | none => exact .inl ⟨rfl, rfl⟩
  | some e =>
    cases h : s.slot e with
    | none => exact .inl ⟨by simp [h], by simp [arbWrite, h]⟩
    | some sl =>
      right
      rcases locateIn_cases s.cfg sl.img t n with ⟨b, l, hl, _⟩ | hl
      · exact .inr ⟨e, sl, _, rfl, h, hl, by simp [arbWrite, h, hl, Except.map]⟩
      · exact .inl ⟨e, sl, rfl, h, hl, by simp [arbWrite, h, hl, Except.map]⟩

/-- Everything `arbFormatTrack` can do (R166). -/
theorem arbFormatTrack_cases (s : State) (d : Option Drive) (t : Nat) :
    (s.slotOf d = none ∧ arbFormatTrack s d t = .error .notReady)
      ∨ (∃ e sl, d = some e ∧ s.slot e = some sl ∧ locateIn s.cfg sl.img t 1 = .error .outOfBounds
          ∧ arbFormatTrack s d t = .error .outOfBounds)
      ∨ (∃ e sl off, d = some e ∧ s.slot e = some sl ∧ locateIn s.cfg sl.img t 1 = .ok off
          ∧ arbFormatTrack s d t = .ok (s.setSlot e (some ⟨sl.img.clear off 4608, true⟩))) := by
  cases d with
  | none => exact .inl ⟨rfl, rfl⟩
  | some e =>
    cases h : s.slot e with
    | none => exact .inl ⟨by simp [h], by simp [arbFormatTrack, h]⟩
    | some sl =>
      right
      rcases locateIn_cases s.cfg sl.img t 1 with ⟨b, l, hl, _⟩ | hl
      · exact .inr ⟨e, sl, _, rfl, h, hl, by simp [arbFormatTrack, h, hl, Except.map]⟩
      · exact .inl ⟨e, sl, rfl, h, hl, by simp [arbFormatTrack, h, hl, Except.map]⟩

/-- Everything `arbRead` can do (R164). -/
theorem arbRead_cases (s : State) (d : Option Drive) (t n : Nat) :
    (s.slotOf d = none ∧ arbRead s d t n = .error .notReady)
      ∨ (∃ e sl, d = some e ∧ s.slot e = some sl ∧ locateIn s.cfg sl.img t n = .error .outOfBounds
          ∧ arbRead s d t n = .error .outOfBounds)
      ∨ (∃ e sl off, d = some e ∧ s.slot e = some sl ∧ locateIn s.cfg sl.img t n = .ok off
          ∧ arbRead s d t n = .ok (sl.img.slice off 512)) := by
  cases d with
  | none => exact .inl ⟨rfl, rfl⟩
  | some e =>
    cases h : s.slot e with
    | none => exact .inl ⟨by simp [h], by simp [arbRead, h]⟩
    | some sl =>
      right
      rcases locateIn_cases s.cfg sl.img t n with ⟨b, l, hl, _⟩ | hl
      · exact .inr ⟨e, sl, _, rfl, h, hl, by simp [arbRead, h, hl, Except.map]⟩
      · exact .inl ⟨e, sl, rfl, h, hl, by simp [arbRead, h, hl, Except.map]⟩

/-- A run of sectors that is accepted lies inside the buffer and the geometry (R158, R159). -/
theorem secRun_ok {b : ByteSeq} {t n c l : Nat} (h : secRun b t n c = .ok l) :
    InRange t n ∧ l = t * 9 + (n - 1) ∧ l + c ≤ 360 ∧ (l + c) * 512 ≤ b.len := by
  unfold secRun at h
  rcases p2l_cases t n with ⟨hr, he, _⟩ | ⟨_, he⟩
  · rw [he] at h
    by_cases h1 : t * 9 + (n - 1) + c > Config.nSectors
    · simp [h1] at h
    · by_cases h2 : (t * 9 + (n - 1) + c) * 512 > b.len
      · simp [h1, h2] at h
      · simp [h1, h2] at h
        have h1' : t * 9 + (n - 1) + c ≤ 360 := Nat.le_of_not_lt h1
        exact ⟨hr, h.symm, by omega, by omega⟩
  · rw [he] at h; cases h

/-! ## The commands' bodies and the commit -/

/-- Everything `commit` can do (R227). -/
theorem commit_cases (s : State) :
    (s.slotOf (driveOf s.cfg s.wrDrive) = none ∧ commit s = complete .notReady s)
      ∨ (∃ e sl, driveOf s.cfg s.wrDrive = some e ∧ s.slot e = some sl
          ∧ locateIn s.cfg sl.img s.wrTrack.toNat s.wrSector.toNat = .error .outOfBounds ∧ commit s = complete .idNotFound s)
      ∨ (∃ e sl off, driveOf s.cfg s.wrDrive = some e ∧ s.slot e = some sl
          ∧ locateIn s.cfg sl.img s.wrTrack.toNat s.wrSector.toNat = .ok off
          ∧ commit s = complete .ok (s.setSlot e (some ⟨sl.img.write off s.buf, true⟩))) := by
  unfold commit
  rcases arbWrite_cases s (driveOf s.cfg s.wrDrive) s.wrTrack.toNat s.wrSector.toNat s.buf with
    ⟨h, he⟩ | ⟨e, sl, hd, hs, hl, he⟩ | ⟨e, sl, off, hd, hs, hl, he⟩
  · exact .inl ⟨h, by rw [he]; rfl⟩
  · exact .inr (.inl ⟨e, sl, hd, hs, hl, by rw [he]; rfl⟩)
  · exact .inr (.inr ⟨e, sl, off, hd, hs, hl, by rw [he]⟩)

/-- Everything `formatTrackBody` can do (R232). -/
theorem formatTrackBody_cases (s : State) :
    (s.slotOf (driveOf s.cfg s.driveSelect) = none ∧ formatTrackBody s = complete .notReady s)
      ∨ (∃ e sl, driveOf s.cfg s.driveSelect = some e ∧ s.slot e = some sl
          ∧ locateIn s.cfg sl.img s.track.toNat 1 = .error .outOfBounds ∧ formatTrackBody s = complete .idNotFound s)
      ∨ (∃ e sl off, driveOf s.cfg s.driveSelect = some e ∧ s.slot e = some sl
          ∧ locateIn s.cfg sl.img s.track.toNat 1 = .ok off
          ∧ formatTrackBody s = complete .ok (s.setSlot e (some ⟨sl.img.clear off 4608, true⟩))) := by
  unfold formatTrackBody
  rcases arbFormatTrack_cases s (driveOf s.cfg s.driveSelect) s.track.toNat with
    ⟨h, he⟩ | ⟨e, sl, hd, hs, hl, he⟩ | ⟨e, sl, off, hd, hs, hl, he⟩
  · exact .inl ⟨h, by rw [he]; rfl⟩
  · exact .inr (.inl ⟨e, sl, hd, hs, hl, by rw [he]; rfl⟩)
  · exact .inr (.inr ⟨e, sl, off, hd, hs, hl, by rw [he]⟩)

/-- Everything `readSectorBody` can do (R225). -/
theorem readSectorBody_cases (s : State) :
    (∃ c, (c = .notReady ∨ c = .idNotFound) ∧ readSectorBody s = complete c { s with crcErr := false })
      ∨ ∃ e sl off, driveOf s.cfg s.driveSelect = some e ∧ s.slot e = some sl
        ∧ locateIn s.cfg sl.img s.track.toNat s.sector.toNat = .ok off
        ∧ (readSectorBody s = complete .crcErr { s with crcErr := true, buf := sl.img.slice off 512 }
          ∨ readSectorBody s = complete .ok { s with
              crcErr := false, buf := sl.img.slice off 512, xferIdx := 0, xferLimit := limit s.cfg s.dmaCount,
              rdActive := true }) := by
  unfold readSectorBody
  rcases arbRead_cases s (driveOf s.cfg s.driveSelect) s.track.toNat s.sector.toNat with
    ⟨h, he⟩ | ⟨e, sl, hd, hs, hl, he⟩ | ⟨e, sl, off, hd, hs, hl, he⟩
  · exact .inl ⟨.notReady, .inl rfl, by rw [he]; rfl⟩
  · exact .inl ⟨.idNotFound, .inr rfl, by rw [he]; rfl⟩
  · refine .inr ⟨e, sl, off, hd, hs, hl, ?_⟩
    rw [he]
    by_cases hc : s.cfg.crcCheckOnRead = true ∧ crcVerify s.cfg (sl.img.slice off 512) = false
    · exact .inl (if_pos hc)
    · exact .inr (if_neg hc)

/-- Everything `readIdBody` can do (R233). -/
theorem readIdBody_cases (s : State) :
    ∃ c, (c = .notReady ∨ c = .idNotFound ∨ c = .ok) ∧ readIdBody s = complete c s := by
  unfold readIdBody
  split
  · rename_i f _
    cases f
    · exact ⟨.idNotFound, .inr (.inl rfl), rfl⟩
    · exact ⟨.notReady, .inl rfl, rfl⟩
  · exact ⟨.ok, .inr (.inr rfl), rfl⟩

/-- What admissible parameters satisfy (R7, R101). -/
theorem params_valid_iff (p : Config.Params) :
    p.valid = true ↔ p.opc.toList.Nodup ∧ p.stbit.toList.Nodup ∧ p.stbit.busy.val < 4 ∧ 1 ≤ p.dmaLimitZero ∧ p.dmaLimitZero ≤ 512
      ∧ p.regOffset.toList.Nodup ∧ 10 ≤ p.window ∧ ∀ o ∈ p.regOffset.toList, o < p.window := by
  simp only [Config.Params.valid, Bool.and_eq_true, decide_eq_true_eq, List.all_eq_true, and_assoc]

/-- A read transfer is 1 to 512 bytes long (R204, R7). -/
theorem limit_range {p : Config.Params} (hp : p.valid = true) (c : Byte) : 1 ≤ limit p c ∧ limit p c ≤ 512 := by
  unfold limit
  split
  · obtain ⟨-, -, -, h1, h2, -⟩ := (params_valid_iff p).1 hp
    exact ⟨h1, h2⟩
  · rename_i h
    have h1 := c.isLt
    have h2 : c.toNat ≠ 0 := fun h0 => h (BitVec.eq_of_toNat_eq h0)
    omega

/-! ## COMMAND writes -/

/-- A COMMAND write is dropped while BUSY, else accepted and run (R193, R222). -/
theorem commandWrite_cases (v : Byte) (body : State → State) (s : State) :
    (isBusy s = true ∧ commandWrite v body s = .next { s with result := .done })
      ∨ (isBusy s = false ∧ commandWrite v body s = .next { body (accept v s) with result := .done }) := by
  cases h : isBusy s
  · exact .inr ⟨rfl, by simp [commandWrite, h]⟩
  · exact .inl ⟨rfl, by simp [commandWrite, h]⟩

/-! ## Per-slot host steps -/

/-- Everything `persistSlot` does to the block: the slot's `dirty` may fall, nothing else (R173). -/
theorem persistSlot_st (d : Drive) (io : IoOutcome) (s : State) :
    (persistSlot d io s).st = s
      ∨ ∃ sl, s.slot d = some sl ∧ (persistSlot d io s).st = s.setSlot d (some ⟨sl.img, false⟩) := by
  unfold persistSlot
  split
  · exact .inl rfl
  · split
    · split
      · exact .inr ⟨_, by assumption, rfl⟩
      · exact .inl rfl
    · exact .inl rfl

/-- Everything `unmountSlot` does to the block: an empty slot stays; a mounted one is emptied, or, after failed I/O, may stay and a
free value is used (R172, U9). -/
theorem unmountSlot_st (d : Drive) (io : IoOutcome) (s : State) :
    (s.slot d = none ∧ (unmountSlot d io s).st = s)
      ∨ (∃ sl, s.slot d = some sl ∧ (sl.dirty = false ∨ io = .ok) ∧ (unmountSlot d io s).st = s.setSlot d none)
      ∨ (∃ sl, s.slot d = some sl ∧ sl.dirty = true ∧ io = .error
          ∧ (unmountSlot d io s).st
            = { s.setSlot d (if Config.freeBool s.freeIdx then some sl else none) with freeIdx := s.freeIdx + 1 }) := by
  unfold unmountSlot
  cases h : s.slot d with
  | none => exact .inl ⟨rfl, rfl⟩
  | some sl =>
    right
    cases hd : sl.dirty
    · exact .inl ⟨sl, rfl, .inl hd, by simp [hd]⟩
    · cases io
      · exact .inl ⟨sl, rfl, .inr rfl, by simp [hd]⟩
      · exact .inr ⟨sl, rfl, hd, rfl, by simp [hd]⟩

end Sys2Proof.Machine
end

