-- ==== Sys2Proof/Laws/Decode.lean ====
section
/-! SUPPORT. The laws of the window decoder: the pass-through offsets, and what an offset decodes to. -/

namespace Sys2Proof
open Sys2Proof.Machine

/-- The pass-through offsets are the window offsets that are no register's (R31). -/
@[simp] theorem mem_padOffsets (p : Config.Params) (off : Nat) :
    off ∈ padOffsets p ↔ off < p.window ∧ off ∉ p.regOffset.toList := by
  simp [padOffsets]

theorem padOffsets_nodup (p : Config.Params) : (padOffsets p).Nodup := List.nodup_range.filter _

/-- There are `FDC_WINDOW - 10` of them (R31). -/
theorem padOffsets_length {p : Config.Params} (hp : p.valid = true) : (padOffsets p).length = p.padBytes := by
  obtain ⟨-, -, -, -, -, hnd, -, hlt⟩ := (params_valid_iff p).1 hp
  have hsplit := List.length_eq_length_filter_add (l := List.range p.window) (fun o => decide (o ∈ p.regOffset.toList))
  have hregs : ((List.range p.window).filter (fun o => decide (o ∈ p.regOffset.toList))).length = 10 := by
    have hperm : ((List.range p.window).filter (fun o => decide (o ∈ p.regOffset.toList))).Perm p.regOffset.toList := by
      rw [List.perm_ext_iff_of_nodup (List.nodup_range.filter _) hnd]
      intro o
      simp only [List.mem_filter, List.mem_range, decide_eq_true_eq]
      exact ⟨And.right, fun h => ⟨hlt o h, h⟩⟩
    exact hperm.length_eq
  have hpad : padOffsets p = (List.range p.window).filter (fun o => !decide (o ∈ p.regOffset.toList)) := by
    simp [padOffsets]
  rw [hpad, Config.Params.padBytes]
  rw [List.length_range, hregs] at hsplit
  simp only [Config.nRegs]
  omega

/-- With the registers at the offsets below 10 they are the offsets from 10 on (R9). -/
theorem padOffsets_of_low {p : Config.Params} (hp : p.valid = true) (hlow : ∀ o ∈ p.regOffset.toList, o < 10) :
    padOffsets p = List.range' 10 (p.window - 10) := by
  obtain ⟨-, -, -, -, -, hnd, hw, -⟩ := (params_valid_iff p).1 hp
  have hall : ∀ o, o < 10 → o ∈ p.regOffset.toList := by
    have hsub : p.regOffset.toList.toFinset ⊆ Finset.range 10 := fun o ho => by
      simpa using hlow o (by simpa using ho)
    have hcard : (Finset.range 10).card ≤ p.regOffset.toList.toFinset.card := by
      rw [List.toFinset_card_of_nodup hnd]; simp [Config.RegOffsets.toList]
    have heq := Finset.eq_of_subset_of_card_le hsub hcard
    intro o ho
    have : o ∈ p.regOffset.toList.toFinset := heq ▸ Finset.mem_range.2 ho
    simpa using this
  have hsorted₁ : (padOffsets p).Pairwise (· < ·) := List.pairwise_lt_range.filter _
  have hsorted₂ : (List.range' 10 (p.window - 10)).Pairwise (· < ·) := List.pairwise_lt_range'
  refine List.Perm.eq_of_pairwise (fun a b _ _ h₁ h₂ => by omega) hsorted₁ hsorted₂ ?_
  rw [List.perm_ext_iff_of_nodup (padOffsets_nodup p) List.nodup_range']
  intro o
  simp only [mem_padOffsets, List.mem_range'_1]
  constructor
  · rintro ⟨h₁, h₂⟩
    have := mt (hall o) h₂
    omega
  · rintro ⟨h₁, h₂⟩
    exact ⟨by omega, fun h => by have := hlow o h; omega⟩

/-- An offset that is no register's decodes to the pass-through byte of its rank (R31, R91). -/
theorem decodeOffset_of_not_register (p : Config.Params) (off : Nat) (h : off ∉ p.regOffset.toList) :
    decodeOffset p off = .inr ((padOffsets p).idxOf off) := by
  simp only [Config.RegOffsets.toList, List.mem_cons, List.not_mem_nil, or_false, not_or] at h
  obtain ⟨h0, h1, h2, h3, h4, h5, h6, h7, h8, h9⟩ := h
  simp only [decodeOffset, h0, h1, h2, h3, h4, h5, h6, h7, h8, h9, if_false]

/-- The pass-through byte a window offset decodes to is one the window has. -/
theorem idxOf_padOffsets_lt {p : Config.Params} (hp : p.valid = true) {off : Nat} (hoff : off < p.window)
    (h : off ∉ p.regOffset.toList) : (padOffsets p).idxOf off < p.padBytes := by
  rw [← padOffsets_length hp]
  exact List.idxOf_lt_length_of_mem ((mem_padOffsets p off).2 ⟨hoff, h⟩)

/-- The offset of the `k`-th pass-through byte decodes to it, and lies in the window. -/
theorem decodeOffset_padOffset {p : Config.Params} (hp : p.valid = true) {k : Nat} (hk : k < p.padBytes) :
    decodeOffset p ((padOffsets p).getD k p.window) = .inr k ∧ (padOffsets p).getD k p.window < p.window := by
  have hk' : k < (padOffsets p).length := by rw [padOffsets_length hp]; exact hk
  have hmem := (mem_padOffsets p _).1 (List.getElem_mem hk')
  rw [List.getD_eq_getElem _ _ hk']
  exact ⟨by rw [decodeOffset_of_not_register p _ hmem.2, (padOffsets_nodup p).idxOf_getElem], hmem.1⟩

end Sys2Proof
end

