-- ==== Sys2Proof/Laws/PerInstr.lean ====
section
/-! SUPPORT. A statement about every operation as syntax, proved constructor by constructor. -/

namespace Sys2Proof.Laws

/-- The format of R90 a request has: a bus access by bus address is format REG (R10, R61). -/
def requestFormat : Request → Format
  | .cmd _ => .cmd
  | .reg _ _ => .reg
  | .mem _ _ => .reg
  | .unit _ => .unit

namespace EncodingFormat

/-- The encoding of an operation has the format the opcode table gives it (R90). -/
def Statement (i : Instr) : Prop := ∀ p : Config.Params, requestFormat (encode p i) = i.format

theorem readSector : Statement .readSector := fun _ => rfl
theorem writeSector : Statement .writeSector := fun _ => rfl
theorem seekTrack : Statement .seekTrack := fun _ => rfl
theorem readStatus : Statement .readStatus := fun _ => rfl
theorem formatTrack : Statement .formatTrack := fun _ => rfl
theorem readId : Statement .readId := fun _ => rfl
theorem recalibrate : Statement .recalibrate := fun _ => rfl
theorem senseInterrupt : Statement .senseInterrupt := fun _ => rfl
theorem invalid (v : Byte) : Statement (.invalid v) := fun _ => rfl
theorem rdCommand : Statement .rdCommand := fun _ => rfl
theorem wrCommand (v : Byte) : Statement (.wrCommand v) := fun _ => rfl
theorem rdStatus : Statement .rdStatus := fun _ => rfl
theorem wrStatus (v : Byte) : Statement (.wrStatus v) := fun _ => rfl
theorem rdData : Statement .rdData := fun _ => rfl
theorem wrData (v : Byte) : Statement (.wrData v) := fun _ => rfl
theorem rdDriveSelect : Statement .rdDriveSelect := fun _ => rfl
theorem wrDriveSelect (v : Byte) : Statement (.wrDriveSelect v) := fun _ => rfl
theorem rdTrack : Statement .rdTrack := fun _ => rfl
theorem wrTrack (v : Byte) : Statement (.wrTrack v) := fun _ => rfl
theorem rdSector : Statement .rdSector := fun _ => rfl
theorem wrSector (v : Byte) : Statement (.wrSector v) := fun _ => rfl
theorem rdDmaAddrLow : Statement .rdDmaAddrLow := fun _ => rfl
theorem wrDmaAddrLow (v : Byte) : Statement (.wrDmaAddrLow v) := fun _ => rfl
theorem rdDmaAddrHigh : Statement .rdDmaAddrHigh := fun _ => rfl
theorem wrDmaAddrHigh (v : Byte) : Statement (.wrDmaAddrHigh v) := fun _ => rfl
theorem rdDmaCount : Statement .rdDmaCount := fun _ => rfl
theorem wrDmaCount (v : Byte) : Statement (.wrDmaCount v) := fun _ => rfl
theorem rdControl : Statement .rdControl := fun _ => rfl
theorem wrControl (v : Byte) : Statement (.wrControl v) := fun _ => rfl
theorem rdPad (k : Nat) : Statement (.rdPad k) := fun _ => rfl
theorem wrPad (k : Nat) (v : Byte) : Statement (.wrPad k v) := fun _ => rfl
theorem crcCompute (data : List Byte) : Statement (.crcCompute data) := fun _ => rfl
theorem crcVerify (sector : List Byte) : Statement (.crcVerify sector) := fun _ => rfl
theorem satP2L (track sector : Nat) : Statement (.satP2L track sector) := fun _ => rfl
theorem satL2P (index : Nat) : Statement (.satL2P index) := fun _ => rfl
theorem secRead (b : BufRef) (track sector : Nat) : Statement (.secRead b track sector) := fun _ => rfl
theorem secWrite (b : BufRef) (track sector : Nat) (data : List Byte) : Statement (.secWrite b track sector data) := fun _ => rfl
theorem secReadM (b : BufRef) (track sector count : Nat) : Statement (.secReadM b track sector count) := fun _ => rfl
theorem secWriteM (b : BufRef) (track sector : Nat) (data : List Byte) : Statement (.secWriteM b track sector data) := fun _ => rfl
theorem secFmtTrk (b : BufRef) (track : Nat) : Statement (.secFmtTrk b track) := fun _ => rfl
theorem secFmtDsk (b : BufRef) : Statement (.secFmtDsk b) := fun _ => rfl
theorem arbRead (d : Option Drive) (track sector : Nat) : Statement (.arbRead d track sector) := fun _ => rfl
theorem arbWrite (d : Option Drive) (track sector : Nat) (data : List Byte) : Statement (.arbWrite d track sector data) := fun _ => rfl
theorem arbFmtTrk (d : Option Drive) (track : Nat) : Statement (.arbFmtTrk d track) := fun _ => rfl
theorem hostMount (d : Option Drive) (image : Option ByteSeq) : Statement (.hostMount d image) := fun _ => rfl
theorem hostUnmount (d : Option Drive) (io : IoOutcome) : Statement (.hostUnmount d io) := fun _ => rfl
theorem hostPersist (d : Option Drive) (io : IoOutcome) : Statement (.hostPersist d io) := fun _ => rfl
theorem hostSaveAll (ioA ioB : IoOutcome) : Statement (.hostSaveAll ioA ioB) := fun _ => rfl
theorem hostUnmountAll (ioA ioB : IoOutcome) : Statement (.hostUnmountAll ioA ioB) := fun _ => rfl
theorem hostCreate (path : String) (is720KB : Bool) (io : IoOutcome) : Statement (.hostCreate path is720KB io) := fun _ => rfl
theorem hostImage (d : Option Drive) (op : ImageOp) : Statement (.hostImage d op) := fun _ => rfl
theorem fire : Statement .fire := fun _ => rfl
theorem reset : Statement .reset := fun _ => rfl

end EncodingFormat
end Sys2Proof.Laws
end

