-- ==== Sys2Proof/Tests/Slice0.lean ====
section
/-! SUPPORT. The model's own tests: a refused term for each well-formedness check, the decoding of words written out from the
spec's encodings, vectors of spec/95_test_vectors.md (each test names its vector), and a witness for every statement with
hypotheses. -/

namespace Sys2Proof.Tests

open Sys2Proof.Machine

/-! ## Helpers -/

/-- One field of the next state, if there is one. -/
def after {α : Type} (f : State → α) : Answer → Option α
  | .next t => some (f t)
  | .fault _ => none
  | .refused _ => none

/-- The reason of a stop, if the answer is one. -/
def stop : Answer → Option (Fault ⊕ Refusal)
  | .next _ => none
  | .fault f => some (.inl f)
  | .refused r => some (.inr r)

/-- The default parameters. -/
abbrev dflt : Config.Params := Config.Params.default

/-- Parameters other than the defaults: a base, the a window of 18 bytes, the registers in reverse order with COMMAND at
17, other opcodes, `AWAIT_DIR` 0, `SIDE1_OFFSET` 184,320. -/
def other : Config.Params :=
  { dflt with
    fdcBase := 0xF000, window := 18, regOffset := ⟨17, 8, 7, 6, 5, 4, 3, 2, 1, 0⟩,
    opc := ⟨0x11#8, 0x12#8, 0x13#8, 0x14#8, 0x15#8, 0x16#8, 0x17#8, 0x00#8⟩, awaitDir := false,
    side1 := .continued }

/-- A 360KB image whose first sector begins 0xEB, 0x3C. -/
def small : ByteSeq := ⟨368640, [(0, 0xEB#8), (1, 0x3C#8), (9216, 0xE5#8), (13823, 0xE5#8), (13824, 0xE5#8)]⟩

/-- A 720KB image; track 1 sector 2 begins 0x77. -/
def big : ByteSeq := ⟨737280, [(5120, 0x77#8)]⟩

/-- Reset, with the 360KB image in A. -/
def withA : State := { State.reset with slotA := some ⟨small, false⟩ }

/-- Reset, with the 720KB image in A. -/
def withBig : State := { State.reset with slotA := some ⟨big, false⟩ }

/-- Track 0 to 255, sector 0 to 255, on a state. -/
def at' (t n : Byte) (s : State) : State := { s with track := t, sector := n }

/-- In the write data phase for A, track 1, sector 2, with `n` bytes received. -/
def writing (n : Nat) : State :=
  { withA with phase := .awaitingData, status := 0x07#8, wrTrack := 0x01#8, wrSector := 0x02#8, xferIdx := n }

/-- A seek in flight. -/
def seeking : State := { withA with phase := .seekPending, status := 0x01#8, pend := some ⟨.ok, 10⟩ }

/-- A read transfer of three bytes at byte `n`, of a buffer that begins 0xEB. -/
def reading (n : Nat) : State :=
  { withA with buf := 0xEB#8 :: 0x3C#8 :: List.replicate 510 0x00#8, rdActive := true, xferIdx := n, xferLimit := 3 }

/-- 512 bytes of one value. -/
abbrev fill (v : Byte) : List Byte := List.replicate 512 v

/-! ## Well-formedness: a refused term for each check -/

theorem test_wf_invalid_refuses_opcode : (Instr.invalid 0x01#8).wf dflt = false := by decide
theorem test_wf_invalid_accepts_other : (Instr.invalid 0x09#8).wf dflt = true := by decide
theorem test_wf_crcVerify_refuses_short : (Instr.crcVerify [0x00#8]).wf dflt = false := by decide
theorem test_wf_secWrite_refuses_short : (Instr.secWrite (.slot (some .A)) 0 1 []).wf dflt = false := by decide
theorem test_wf_secWriteM_refuses_odd : (Instr.secWriteM (.slot (some .A)) 0 1 [0x00#8]).wf dflt = false := by decide
theorem test_wf_arbWrite_refuses_short : (Instr.arbWrite (some .A) 0 1 []).wf dflt = false := by decide
theorem test_wf_secRead_refuses_unsorted :
    (Instr.secRead (.handed ⟨512, [(2, 0x01#8), (1, 0x01#8)]⟩) 0 1).wf dflt = false := by decide
theorem test_wf_secReadM_refuses_listed_zero :
    (Instr.secReadM (.handed ⟨512, [(2, 0x00#8)]⟩) 0 1 1).wf dflt = false := by decide
theorem test_wf_secWrite_refuses_buffer :
    (Instr.secWrite (.handed ⟨512, [(512, 0x01#8)]⟩) 0 1 (fill 0x00#8)).wf dflt = false := by decide
theorem test_wf_secWriteM_refuses_buffer :
    (Instr.secWriteM (.handed ⟨512, [(512, 0x01#8)]⟩) 0 1 []).wf dflt = false := by decide
theorem test_wf_secFmtTrk_refuses_buffer :
    (Instr.secFmtTrk (.handed ⟨512, [(1, 0x01#8), (1, 0x01#8)]⟩) 0).wf dflt = false := by decide
theorem test_wf_secFmtDsk_refuses_buffer : (Instr.secFmtDsk (.handed ⟨1, [(1, 0x01#8)]⟩)).wf dflt = false := by decide
theorem test_wf_hostMount_refuses_image :
    (Instr.hostMount (some .A) (some ⟨368640, [(368640, 0x01#8)]⟩)).wf dflt = false := by decide

/-! ## Decoding: words written out bit by bit from R91 and R94 -/

theorem test_decode_commands :
    decodeCommand dflt 0b00000001#8 = .readSector ∧ decodeCommand dflt 0b00000010#8 = .writeSector
    ∧ decodeCommand dflt 0b00000011#8 = .seekTrack ∧ decodeCommand dflt 0b00000100#8 = .readStatus
    ∧ decodeCommand dflt 0b00000101#8 = .formatTrack ∧ decodeCommand dflt 0b00000110#8 = .readId
    ∧ decodeCommand dflt 0b00000111#8 = .recalibrate ∧ decodeCommand dflt 0b00001000#8 = .senseInterrupt
    ∧ decodeCommand dflt 0b10000001#8 = .invalid 0x81#8 := by decide

theorem test_decode_register_reads :
    decodeAccess dflt 0b0000 .rd = .rdCommand ∧ decodeAccess dflt 0b0001 .rd = .rdStatus ∧ decodeAccess dflt 0b0010 .rd = .rdData
    ∧ decodeAccess dflt 0b0011 .rd = .rdDriveSelect ∧ decodeAccess dflt 0b0100 .rd = .rdTrack
    ∧ decodeAccess dflt 0b0101 .rd = .rdSector ∧ decodeAccess dflt 0b0110 .rd = .rdDmaAddrLow
    ∧ decodeAccess dflt 0b0111 .rd = .rdDmaAddrHigh ∧ decodeAccess dflt 0b1000 .rd = .rdDmaCount
    ∧ decodeAccess dflt 0b1001 .rd = .rdControl ∧ decodeAccess dflt 0b1010 .rd = .rdPad 0 ∧ decodeAccess dflt 0b1111 .rd = .rdPad 5 := by
  decide

theorem test_decode_register_writes (v : Byte) :
    decodeAccess dflt 0b0000 (.wr v) = .wrCommand v ∧ decodeAccess dflt 0b0001 (.wr v) = .wrStatus v
    ∧ decodeAccess dflt 0b0010 (.wr v) = .wrData v ∧ decodeAccess dflt 0b0011 (.wr v) = .wrDriveSelect v
    ∧ decodeAccess dflt 0b0100 (.wr v) = .wrTrack v ∧ decodeAccess dflt 0b0101 (.wr v) = .wrSector v
    ∧ decodeAccess dflt 0b0110 (.wr v) = .wrDmaAddrLow v ∧ decodeAccess dflt 0b0111 (.wr v) = .wrDmaAddrHigh v
    ∧ decodeAccess dflt 0b1000 (.wr v) = .wrDmaCount v ∧ decodeAccess dflt 0b1001 (.wr v) = .wrControl v
    ∧ decodeAccess dflt 0b1011 (.wr v) = .wrPad 1 v ∧ decodeAccess dflt 0b1100 (.wr v) = .wrPad 2 v :=
  ⟨rfl, rfl, rfl, rfl, rfl, rfl, rfl, rfl, rfl, rfl, rfl, rfl⟩

/-- R31: a register moved above offset 9 leaves its offset to a pass-through byte (log 2); a window of 10 has none, and an offset
past it is outside. -/
theorem test_decode_moved_window :
    decodeAccess other 17 .rd = .rdCommand ∧ decodeAccess other 9 .rd = .rdPad 0 ∧ decodeAccess other 16 .rd = .rdPad 7
    ∧ ((decode { dflt with window := 10 } (.reg 9 .rd)).toOption = some .rdControl)
    ∧ (decode { dflt with window := 10 } (.reg 10 .rd)).toOption = none ∧ ({ dflt with window := 10 } : Config.Params).valid = true := by
  decide

/-- A unit operation has no bit encoding (R90): the typed request is the operation. -/
theorem test_decode_unit_operations :
    ([.crcCompute [], .satP2L 0 1, .satL2P 0, .secRead (.slot none) 0 1, .secReadM (.slot none) 0 1 1, .secFmtTrk (.slot none) 0,
      .secFmtDsk (.slot none), .arbRead none 0 1, .arbFmtTrk none 0, .hostMount none none, .hostUnmount none .ok,
      .hostPersist none .ok, .hostSaveAll .ok .ok, .hostUnmountAll .ok .ok, .hostCreate "x" false .ok,
      .hostImage none (.readBytes []), .secWriteM (.slot none) 0 1 [], .fire, .reset] : List Instr).all
      (fun i => decide ((decode dflt (.unit i)).toOption = some i)) = true := by decide

theorem test_decode_unit_operations_of_a_sector :
    ([.crcVerify (fill 0x01#8), .secWrite (.slot none) 0 1 (fill 0x02#8), .arbWrite none 0 1 (fill 0x03#8)] : List Instr).all
      (fun i => decide ((decode dflt (.unit i)).toOption = some i)) = true := by decide +kernel

theorem test_decode_at_other_parameters :
    decodeCommand other 0b00010001#8 = .readSector ∧ decodeCommand other 0x01#8 = .invalid 0x01#8
    ∧ decodeCommand other 0x00#8 = .senseInterrupt ∧ (decode other (.mem 0xF005 .rd)).toOption = some .rdTrack := by decide

theorem test_decode_rejects_by_name :
    decode other (.mem 0xF012 .rd) = .error .outsideWindow ∧ decode other (.mem 0xEFFF .rd) = .error .outsideWindow
    ∧ decode dflt (.unit .rdStatus) = .error .notAUnitOperation ∧ decode dflt (.unit (.crcVerify [])) = .error .illFormed :=
  ⟨rfl, rfl, rfl, rfl⟩

theorem test_table_words : decodeTableWord 8 0x05 = some .formatTrack ∧ decodeTableWord 8 0x09 = some (.invalid 0x09#8)
    ∧ decodeTableWord 4 0b0100 = some .rdTrack ∧ decodeTableWord 8 0x100 = none := by decide

theorem test_fetched_word_runs : after (·.status) (step (State.reset.withFetchWord 8 0x03)) = some 0x01#8 := by decide

/-! ## The CRC unit (R121, section 2 of the vectors) -/

/-- Rows 00 to 38 of the table R121 prints. -/
def printedTable0 : List Word16 :=
  [0x0000#16, 0xC0C1#16, 0xC181#16, 0x0140#16, 0xC301#16, 0x03C0#16, 0x0280#16, 0xC241#16] ++
  [0xC601#16, 0x06C0#16, 0x0780#16, 0xC741#16, 0x0500#16, 0xC5C1#16, 0xC481#16, 0x0440#16] ++
  [0xCC01#16, 0x0CC0#16, 0x0D80#16, 0xCD41#16, 0x0F00#16, 0xCFC1#16, 0xCE81#16, 0x0E40#16] ++
  [0x0A00#16, 0xCAC1#16, 0xCB81#16, 0x0B40#16, 0xC901#16, 0x09C0#16, 0x0880#16, 0xC841#16] ++
  [0xD801#16, 0x18C0#16, 0x1980#16, 0xD941#16, 0x1B00#16, 0xDBC1#16, 0xDA81#16, 0x1A40#16] ++
  [0x1E00#16, 0xDEC1#16, 0xDF81#16, 0x1F40#16, 0xDD01#16, 0x1DC0#16, 0x1C80#16, 0xDC41#16] ++
  [0x1400#16, 0xD4C1#16, 0xD581#16, 0x1540#16, 0xD701#16, 0x17C0#16, 0x1680#16, 0xD641#16] ++
  [0xD201#16, 0x12C0#16, 0x1380#16, 0xD341#16, 0x1100#16, 0xD1C1#16, 0xD081#16, 0x1040#16]

/-- The 64 printed values from 00 on are those the formula of R121 gives. -/
theorem test_crcTable_part0 : (List.range' 0 64).map (fun i => crcTable (BitVec.ofNat 8 i)) = printedTable0 := by decide +kernel

/-- Rows 40 to 78 of the table R121 prints. -/
def printedTable1 : List Word16 :=
  [0xF001#16, 0x30C0#16, 0x3180#16, 0xF141#16, 0x3300#16, 0xF3C1#16, 0xF281#16, 0x3240#16] ++
  [0x3600#16, 0xF6C1#16, 0xF781#16, 0x3740#16, 0xF501#16, 0x35C0#16, 0x3480#16, 0xF441#16] ++
  [0x3C00#16, 0xFCC1#16, 0xFD81#16, 0x3D40#16, 0xFF01#16, 0x3FC0#16, 0x3E80#16, 0xFE41#16] ++
  [0xFA01#16, 0x3AC0#16, 0x3B80#16, 0xFB41#16, 0x3900#16, 0xF9C1#16, 0xF881#16, 0x3840#16] ++
  [0x2800#16, 0xE8C1#16, 0xE981#16, 0x2940#16, 0xEB01#16, 0x2BC0#16, 0x2A80#16, 0xEA41#16] ++
  [0xEE01#16, 0x2EC0#16, 0x2F80#16, 0xEF41#16, 0x2D00#16, 0xEDC1#16, 0xEC81#16, 0x2C40#16] ++
  [0xE401#16, 0x24C0#16, 0x2580#16, 0xE541#16, 0x2700#16, 0xE7C1#16, 0xE681#16, 0x2640#16] ++
  [0x2200#16, 0xE2C1#16, 0xE381#16, 0x2340#16, 0xE101#16, 0x21C0#16, 0x2080#16, 0xE041#16]

/-- The 64 printed values from 40 on are those the formula of R121 gives. -/
theorem test_crcTable_part1 : (List.range' 64 64).map (fun i => crcTable (BitVec.ofNat 8 i)) = printedTable1 := by decide +kernel

/-- Rows 80 to B8 of the table R121 prints. -/
def printedTable2 : List Word16 :=
  [0xA001#16, 0x60C0#16, 0x6180#16, 0xA141#16, 0x6300#16, 0xA3C1#16, 0xA281#16, 0x6240#16] ++
  [0x6600#16, 0xA6C1#16, 0xA781#16, 0x6740#16, 0xA501#16, 0x65C0#16, 0x6480#16, 0xA441#16] ++
  [0x6C00#16, 0xACC1#16, 0xAD81#16, 0x6D40#16, 0xAF01#16, 0x6FC0#16, 0x6E80#16, 0xAE41#16] ++
  [0xAA01#16, 0x6AC0#16, 0x6B80#16, 0xAB41#16, 0x6900#16, 0xA9C1#16, 0xA881#16, 0x6840#16] ++
  [0x7800#16, 0xB8C1#16, 0xB981#16, 0x7940#16, 0xBB01#16, 0x7BC0#16, 0x7A80#16, 0xBA41#16] ++
  [0xBE01#16, 0x7EC0#16, 0x7F80#16, 0xBF41#16, 0x7D00#16, 0xBDC1#16, 0xBC81#16, 0x7C40#16] ++
  [0xB401#16, 0x74C0#16, 0x7580#16, 0xB541#16, 0x7700#16, 0xB7C1#16, 0xB681#16, 0x7640#16] ++
  [0x7200#16, 0xB2C1#16, 0xB381#16, 0x7340#16, 0xB101#16, 0x71C0#16, 0x7080#16, 0xB041#16]

/-- The 64 printed values from 80 on are those the formula of R121 gives. -/
theorem test_crcTable_part2 : (List.range' 128 64).map (fun i => crcTable (BitVec.ofNat 8 i)) = printedTable2 := by decide +kernel

/-- Rows C0 to F8 of the table R121 prints. -/
def printedTable3 : List Word16 :=
  [0x5000#16, 0x90C1#16, 0x9181#16, 0x5140#16, 0x9301#16, 0x53C0#16, 0x5280#16, 0x9241#16] ++
  [0x9601#16, 0x56C0#16, 0x5780#16, 0x9741#16, 0x5500#16, 0x95C1#16, 0x9481#16, 0x5440#16] ++
  [0x9C01#16, 0x5CC0#16, 0x5D80#16, 0x9D41#16, 0x5F00#16, 0x9FC1#16, 0x9E81#16, 0x5E40#16] ++
  [0x5A00#16, 0x9AC1#16, 0x9B81#16, 0x5B40#16, 0x9901#16, 0x59C0#16, 0x5880#16, 0x9841#16] ++
  [0x8801#16, 0x48C0#16, 0x4980#16, 0x8941#16, 0x4B00#16, 0x8BC1#16, 0x8A81#16, 0x4A40#16] ++
  [0x4E00#16, 0x8EC1#16, 0x8F81#16, 0x4F40#16, 0x8D01#16, 0x4DC0#16, 0x4C80#16, 0x8C41#16] ++
  [0x4400#16, 0x84C1#16, 0x8581#16, 0x4540#16, 0x8701#16, 0x47C0#16, 0x4680#16, 0x8641#16] ++
  [0x8201#16, 0x42C0#16, 0x4380#16, 0x8341#16, 0x4100#16, 0x81C1#16, 0x8081#16, 0x4040#16]

/-- The 64 printed values from C0 on are those the formula of R121 gives. -/
theorem test_crcTable_part3 : (List.range' 192 64).map (fun i => crcTable (BitVec.ofNat 8 i)) = printedTable3 := by decide +kernel

/-- V-CRC-8: the ASCII digits 1 to 9. -/
theorem test_crc_digits :
    crc16 dflt [0x31#8, 0x32#8, 0x33#8, 0x34#8, 0x35#8, 0x36#8, 0x37#8, 0x38#8, 0x39#8] = 0xBB3D#16 := by decide

/-- V-CRC-7 with `CRC_INIT` 0xFFFF, as the answer of CRC16.COMPUTE. -/
theorem test_crcCompute_answers :
    after (·.result) (exec (.crcCompute [0x01#8, 0x02#8]) { State.reset with cfg := { dflt with crcInit := 0xFFFF#16 } })
      = some (.crc 0xE181#16) := by decide

/-- V-CRC-20 and V-CRC-26. -/
theorem test_crcVerify_zeros_and_boot_signature :
    after (·.result) (exec (.crcVerify (fill 0x00#8)) State.reset) = some (.bool true)
    ∧ after (·.result) (exec (.crcVerify (List.replicate 510 0x00#8 ++ [0x55#8, 0xAA#8])) State.reset) = some (.bool false) := by
  decide +kernel

/-- V-CRC-21 and V-CRC-24: the ramp with its CRC, low byte first and high byte first. -/
theorem test_crcVerify_ramp :
    crcVerify dflt ((List.range 510).map (BitVec.ofNat 8) ++ [0x42#8, 0x08#8]) = true
    ∧ crcVerify dflt ((List.range 510).map (BitVec.ofNat 8) ++ [0x08#8, 0x42#8]) = false := by decide +kernel

/-! ## The translator (V-SAT-4, -5, -7, -8, -13, -15) -/

theorem test_satP2L : after (·.result) (exec (.satP2L 12 5) State.reset) = some (.index 112)
    ∧ after (·.result) (exec (.satP2L 39 9) State.reset) = some (.index 359) := by decide
theorem test_satP2L_out_of_bounds : after (·.result) (exec (.satP2L 0 10) State.reset) = some (.failed .outOfBounds)
    ∧ after (·.result) (exec (.satP2L 40 1) State.reset) = some (.failed .outOfBounds) := by decide
theorem test_satL2P : after (·.result) (exec (.satL2P 112) State.reset) = some (.physical 12 5)
    ∧ after (·.result) (exec (.satL2P 360) State.reset) = some (.failed .outOfBounds) := by decide

/-! ## The buffer level -/

/-- V-SEC-5: one byte short of the last sector. -/
theorem test_secRead_short_buffer :
    after (·.result) (exec (.secRead (.handed ⟨184319, []⟩) 39 9) State.reset) = some (.failed .outOfBounds) := by decide
/-- V-SEC-1 on an image in a slot (log 13). -/
theorem test_secRead_slot :
    after (·.result) (exec (.secRead (.slot (some .A)) 0 1) withA)
      = some (.bytes (0xEB#8 :: 0x3C#8 :: List.replicate 510 0x00#8)) := by decide +kernel
/-- V-SEC-3: the bytes on either side stay. -/
theorem test_secWrite :
    (secWrite ⟨368640, [(4607, 0xFF#8), (4608, 0xFF#8), (5120, 0xFF#8)]⟩ 1 1 (0x11#8 :: List.replicate 511 0x00#8)).toOption
      = some ⟨368640, [(4607, 0xFF#8), (4608, 0x11#8), (5120, 0xFF#8)]⟩ := by decide +kernel
/-- V-SEC-4. -/
theorem test_secWrite_out_of_bounds :
    after (·.result) (exec (.secWrite (.handed small) 40 1 (fill 0x11#8)) State.reset) = some (.failed .outOfBounds) := by
  decide +kernel
/-- V-SEC-10, V-SEC-11: one sector past the end; a run of none. -/
theorem test_secReadM_bounds :
    after (·.result) (exec (.secReadM (.handed small) 0 2 360) State.reset) = some (.failed .outOfBounds)
    ∧ after (·.result) (exec (.secReadM (.handed small) 5 5 0) State.reset) = some (.bytes []) := by decide
/-- V-SEC-12: two sectors from the last one on, nothing written. -/
theorem test_secWriteM_out_of_bounds :
    after (·.result) (exec (.secWriteM (.handed small) 39 9 (List.replicate 1024 0x00#8)) State.reset)
      = some (.failed .outOfBounds) := by decide +kernel
/-- The last sector alone (R159), into the image of a slot, which becomes dirty (R167). -/
theorem test_secWriteM_last_sector :
    after (fun t => t.slotA.map (fun sl => (sl.dirty, sl.img.read 183808, sl.img.read 184319)))
      (exec (.secWriteM (.slot (some .A)) 39 9 (fill 0x22#8)) withA) = some (some (true, 0x22#8, 0x22#8)) := by decide +kernel
/-- V-SEC-13: track 2, the bytes on either side stay. -/
theorem test_secFmtTrk :
    after (·.result) (exec (.secFmtTrk (.handed ⟨368640, [(9215, 0xFF#8), (9216, 0xFF#8), (13823, 0xFF#8), (13824, 0xFF#8)]⟩) 2)
      State.reset) = some (.buffer ⟨368640, [(9215, 0xFF#8), (13824, 0xFF#8)]⟩) := by decide
/-- V-SEC-15. -/
theorem test_secFmtDsk :
    after (·.result) (exec (.secFmtDsk (.handed ⟨368640, [(0, 0xFF#8), (184319, 0xFF#8), (184320, 0xFF#8)]⟩)) State.reset)
      = some (.buffer ⟨368640, [(184320, 0xFF#8)]⟩) := by decide

/-! ## The slot level -/

/-- V-ARB-4 and V-ARB-5: readiness is tested before the address. -/
theorem test_arbRead_fails :
    after (·.result) (exec (.arbRead (some .B) 0 0) withA) = some (.failed .notReady)
    ∧ after (·.result) (exec (.arbRead (some .A) 40 1) withA) = some (.failed .outOfBounds) := by decide
/-- V-ARB-6, V-ARB-7: the remap of a 720KB image at the three values of `SIDE1_OFFSET`. -/
theorem test_locate_two_sided :
    (locateIn dflt big 41 2).toOption = some 5120 ∧ (locateIn { dflt with side1 := .continued } big 41 2).toOption = some 189440
    ∧ (locateIn { dflt with side1 := .upperHalf } big 41 2).toOption = some 373760
    ∧ (locateIn dflt big 79 9).toOption = some 183808 ∧ (locateIn dflt big 80 1).toOption = none := by decide
/-- V-ARB-2: the bytes land at 5120 to 5631. -/
theorem test_arbWrite :
    after (fun t => t.slotA.map (fun sl => (sl.dirty, sl.img.read 5119, sl.img.read 5120, sl.img.read 5631, sl.img.read 5632)))
      (exec (.arbWrite (some .A) 1 2 (fill 0x5A#8)) withA) = some (some (true, 0x00#8, 0x5A#8, 0x5A#8, 0x00#8)) := by
  decide +kernel
/-- V-ARB-8. -/
theorem test_arbFmtTrk :
    after (fun t => t.slotA) (exec (.arbFmtTrk (some .A) 2) withA)
      = some (some ⟨⟨368640, [(0, 0xEB#8), (1, 0x3C#8), (13824, 0xE5#8)]⟩, true⟩) := by decide

/-! ## The host's media operations -/

/-- V-HOST-1 and V-HOST-3. -/
theorem test_hostMount :
    after (fun t => (t.slotA, t.result)) (exec (.hostMount (some .A) (some (ByteSeq.zeros 368640))) State.reset)
      = some (some ⟨⟨368640, []⟩, false⟩, .bool true)
    ∧ after (fun t => (t.slotB, t.result)) (exec (.hostMount (some .B) (some (ByteSeq.zeros 184320))) State.reset)
      = some (none, .bool false) := by decide
/-- U8: mounting into an occupied slot has no step. -/
theorem test_hostMount_occupied :
    stop (exec (.hostMount (some .A) (some big)) withA) = some (.inr .mountOccupied) := by decide
/-- V-HOST-6, V-HOST-7. -/
theorem test_hostUnmount :
    after (·.result) (exec (.hostUnmount (some .B) .ok) withA) = some (.persisted [] false)
    ∧ after (fun t => (t.slotA, t.result)) (exec (.hostUnmount (some .A) .ok) { withA with slotA := some ⟨small, true⟩ })
      = some (none, .persisted [(.A, small)] true) := by decide
/-- V-HOST-8. -/
theorem test_hostPersist :
    after (fun t => (t.slotA, t.result)) (exec (.hostPersist (some .A) .ok) { withA with slotA := some ⟨small, true⟩ })
      = some (some ⟨small, false⟩, .persisted [(.A, small)] true) := by decide
/-- R174, with a dirty A and a clean B. -/
theorem test_hostSaveAll :
    after (·.result) (exec (.hostSaveAll .ok .ok) { withA with slotA := some ⟨small, true⟩, slotB := some ⟨big, false⟩ })
      = some (.persisted [(.A, small)] true) := by decide
/-- R175, with a clean A and a dirty B. -/
theorem test_hostUnmountAll :
    after (fun t => (t.slotA, t.slotB, t.result)) (exec (.hostUnmountAll .ok .ok) { withA with slotB := some ⟨big, true⟩ })
      = some (none, none, .unmountedAll [(.B, big)]) := by decide
/-- V-HOST-9. -/
theorem test_hostCreate :
    after (fun t => (t.slotA, t.result)) (exec (.hostCreate "d" true .ok) State.reset)
      = some (none, .created "d" ⟨737280, []⟩ true) := by decide
/-- R181; an offset past the end faults (log 14). -/
theorem test_hostImage :
    after (·.result) (exec (.hostImage (some .A) (.readBytes [1, 0])) withA) = some (.bytes [0x3C#8, 0xEB#8])
    ∧ stop (exec (.hostImage (some .A) (.replaceBytes [(368640, 0x01#8)])) withA) = some (.inl .imageOffset) := by decide
/-- R181: bytes replaced, in a slot that becomes dirty. -/
theorem test_hostImage_replaces :
    after (fun t => t.slotA.map (fun sl => (sl.dirty, sl.img.read 0, sl.img.read 1)))
      (exec (.hostImage (some .A) (.replaceBytes [(1, 0x00#8)])) withA) = some (some (true, 0xEB#8, 0x00#8)) := by decide

/-! ## Register accesses -/

/-- V-REG-1. -/
theorem test_reads_after_reset :
    ([.rdCommand, .rdStatus, .rdData, .rdDriveSelect, .rdTrack, .rdSector, .rdDmaAddrLow, .rdDmaAddrHigh, .rdDmaCount, .rdControl,
      .rdPad 0, .rdPad 1, .rdPad 2, .rdPad 3, .rdPad 4, .rdPad 5] : List Instr).all
      (fun i => decide (after (·.result) (exec i State.reset) = some (.byte 0x00#8))) = true := by decide
/-- V-REG-2 and V-REG-10: each write stores its own register. -/
theorem test_plain_writes_read_back :
    ([(.wrDriveSelect 0xC8#8, .rdDriveSelect), (.wrTrack 0xC8#8, .rdTrack), (.wrSector 0xC8#8, .rdSector),
      (.wrDmaAddrLow 0xC8#8, .rdDmaAddrLow), (.wrDmaAddrHigh 0xC8#8, .rdDmaAddrHigh), (.wrDmaCount 0xC8#8, .rdDmaCount),
      (.wrControl 0xC8#8, .rdControl), (.wrPad 4 0xC8#8, .rdPad 4), (.wrData 0xC8#8, .rdData)] : List (Instr × Instr)).all
      (fun p => decide (after (·.result) (execAll [p.1, p.2] State.reset) = some (.byte 0xC8#8))) = true := by decide
/-- V-REG-3. -/
theorem test_wrStatus_ignored : after (·.result) (execAll [.wrStatus 0xFF#8, .rdStatus] State.reset) = some (.byte 0x00#8) := by
  decide
/-- V-REG-4: the neighbour stays. -/
theorem test_wrPad_neighbour : after (·.result) (execAll [.wrPad 0 0x5A#8, .rdPad 1] State.reset) = some (.byte 0x00#8) := by decide
/-- V-REG-6 and V-REG-7: an unknown command; a write dropped while BUSY. -/
theorem test_wrCommand :
    after (fun t => (t.command, t.status)) (exec (.wrCommand 0x99#8) State.reset) = some (0x99#8, 0x80#8)
    ∧ after (fun t => (t.command, t.status)) (exec (.wrCommand 0x01#8) { seeking with command := 0x03#8 })
      = some (0x03#8, 0x01#8) := by decide
/-- V-REG-11. -/
theorem test_limit : limit dflt 0x00#8 = 512 ∧ limit dflt 0x01#8 = 1 ∧ limit dflt 0xFF#8 = 255 := by decide
/-- V-REG-21: the third byte ends the transfer. -/
theorem test_rdData_transfer :
    after (fun t => (t.result, t.xferIdx, t.rdActive)) (exec .rdData (reading 1)) = some (.byte 0x3C#8, 2, true)
    ∧ after (fun t => (t.result, t.xferIdx, t.rdActive)) (exec .rdData (reading 2)) = some (.byte 0x00#8, 3, false) := by decide
/-- V-REG-9: a read does not feed the write phase. -/
theorem test_rdData_write_phase : after (fun t => (t.result, t.xferIdx)) (exec .rdData (writing 0)) = some (.byte 0x00#8, 0) := by
  decide
/-- R197: a byte of the write data phase. -/
theorem test_wrData_feeds :
    after (fun t => (t.data, t.buf[3]?, t.xferIdx, t.phase)) (exec (.wrData 0xF5#8) (writing 3))
      = some (0xF5#8, some 0xF5#8, 4, .awaitingData) := by decide
/-- P1 step 6: the 512th byte commits. -/
theorem test_wrData_commits :
    after (fun t => (t.status, t.phase, t.irqPending, t.slotA.map (fun sl => (sl.dirty, sl.img.read 5631))))
      (exec (.wrData 0xFC#8) (writing 511)) = some (0x00#8, .idle, true, some (true, 0xFC#8)) := by decide +kernel

/-! ## Commands -/

/-- V-CMD-1. -/
theorem test_readSector :
    after (fun t => (t.status, t.irqPending, t.rdActive, t.xferLimit, t.buf[0]?)) (exec .readSector (at' 0x00#8 0x01#8 withA))
      = some (0x00#8, true, true, 512, some 0xEB#8) := by decide +kernel
/-- V-CMD-4 and V-CMD-2: not ready wins over a bad address. -/
theorem test_readSector_fails :
    after (·.status) (exec .readSector { withA with driveSelect := 0x01#8 }) = some 0x50#8
    ∧ after (fun t => (t.status, t.irqPending)) (exec .readSector withA) = some (0x10#8, false) := by decide
/-- V-REG-8, and V-REG-12 with `AWAIT_DIR` 0. -/
theorem test_writeSector :
    after (fun t => (t.status, t.phase, t.wrTrack, t.wrSector, t.xferIdx)) (exec .writeSector (at' 0x01#8 0x02#8 withA))
      = some (0x07#8, .awaitingData, 0x01#8, 0x02#8, 0)
    ∧ after (·.status) (exec .writeSector { withA with cfg := other }) = some 0x03#8 := by decide
/-- V-CMD-20. -/
theorem test_seekTrack :
    after (fun t => (t.status, t.phase, t.pend)) (exec .seekTrack (at' 0x05#8 0x00#8 withA))
      = some (0x01#8, .seekPending, some ⟨.ok, 10⟩) := by decide
/-- V-CMD-30. -/
theorem test_recalibrate :
    after (fun t => (t.status, t.track, t.pend)) (exec .recalibrate (at' 0x27#8 0x00#8 withA))
      = some (0x01#8, 0x00#8, some ⟨.ok, 100⟩) := by decide
/-- V-CMD-21, and FIRE with nothing pending (R240). -/
theorem test_fire :
    after (fun t => (t.status, t.phase, t.seekDone, t.irqPending, t.pend)) (exec .fire seeking)
      = some (0x00#8, .idle, true, true, none)
    ∧ stop (exec .fire withA) = some (.inr .fireNotPending) := by decide
/-- V-CMD-35, V-CMD-38 and V-CMD-37. -/
theorem test_readStatus :
    after (·.data) (exec .readStatus withA) = some 0x48#8
    ∧ after (·.data) (exec .readStatus { withA with track := 0x05#8, seekDone := true }) = some 0x50#8
    ∧ after (·.data) (exec .readStatus { withA with driveSelect := 0x01#8 }) = some 0x08#8 := by decide
/-- V-CMD-45 and V-CMD-46. -/
theorem test_formatTrack :
    after (fun t => (t.status, t.slotA)) (exec .formatTrack (at' 0x02#8 0xFF#8 withA))
      = some (0x00#8, some ⟨⟨368640, [(0, 0xEB#8), (1, 0x3C#8), (13824, 0xE5#8)]⟩, true⟩)
    ∧ after (fun t => (t.status, t.slotA)) (exec .formatTrack (at' 0x28#8 0xFF#8 withA)) = some (0x10#8, some ⟨small, false⟩) := by
  decide +kernel
/-- V-CMD-50, V-CMD-51 and V-CMD-54. -/
theorem test_readId :
    after (·.status) (exec .readId (at' 0x27#8 0x09#8 withA)) = some 0x00#8
    ∧ after (·.status) (exec .readId (at' 0x27#8 0x0A#8 withA)) = some 0x10#8
    ∧ after (·.status) (exec .readId (at' 0x4F#8 0x09#8 withBig)) = some 0x00#8
    ∧ after (·.status) (exec .readId (at' 0x50#8 0x09#8 withBig)) = some 0x10#8 := by decide
/-- V-CMD-60, V-CMD-61 and V-CMD-62. -/
theorem test_senseInterrupt :
    after (fun t => (t.data, t.irqPending)) (exec .senseInterrupt { withA with irqPending := true }) = some (0x01#8, false)
    ∧ after (fun t => (t.data, t.status)) (exec .senseInterrupt { withA with status := 0x10#8 }) = some (0x00#8, 0x00#8) := by decide
/-- V-CMD-40. -/
theorem test_invalid :
    after (fun t => (t.status, t.irqPending, t.command)) (exec (.invalid 0x99#8) withA) = some (0x80#8, false, 0x99#8) := by decide
/-- R290, R291: reset discards the pending completion and leaves the slot. -/
theorem test_reset :
    after (fun t => (t.status, t.phase, t.pend, t.slotA)) (exec .reset seeking) = some (0x00#8, .idle, none, some ⟨small, false⟩) := by
  decide

/-! ## Witnesses: states and operands that meet a statement's hypotheses, clause by clause -/

theorem inv_withA : Inv withA where
  cfgValid := by decide
  padLength := rfl
  bufLength := reset_buf_length
  idxLe := by decide
  limitRange := by decide
  busyIff := by decide
  awaiting := by decide
  seeking := by decide
  noPending := by decide
  reading := by decide
  idleCode := fun _ => .inl rfl
  slots := by decide

theorem inv_seeking : Inv seeking where
  cfgValid := by decide
  padLength := rfl
  bufLength := reset_buf_length
  idxLe := by decide
  limitRange := by decide
  busyIff := by decide
  awaiting := by decide
  seeking := by decide
  noPending := by decide
  reading := by decide
  idleCode := by intro h; cases h
  slots := by decide

theorem inv_writing (n : Nat) (h : n < 512) : Inv (writing n) where
  cfgValid := by show dflt.valid = true; decide
  padLength := rfl
  bufLength := reset_buf_length
  idxLe := Nat.le_of_lt h
  limitRange := by show 1 ≤ 512 ∧ 512 ≤ 512; decide
  busyIff := ⟨fun _ => (by intro h; cases h), fun _ => (by decide : (0x07#8).getLsbD dflt.stbit.busy.val = true)⟩
  awaiting := fun _ => ⟨(by decide : 0x07#8 = awaitByte dflt), h, rfl⟩
  seeking := by intro h; cases h
  noPending := fun _ => rfl
  reading := by intro h; cases h
  idleCode := by intro h; cases h
  slots := (by decide : withA.memWf = true)

theorem inv_reading : Inv (reading 2) where
  cfgValid := by decide
  padLength := rfl
  bufLength := by decide +kernel
  idxLe := by decide
  limitRange := by decide
  busyIff := by decide
  awaiting := by decide
  seeking := by decide
  noPending := by decide
  reading := by decide
  idleCode := fun _ => .inl rfl
  slots := by decide

/-- DecodeOfEncodeIsIdentity, EncodeOfDecodeIsIdentity, CommandByteDecoding: the defaults and other parameters are admissible;
operands at their limits; the ends of the pass-through bytes. -/
theorem witness_encoding :
    dflt.valid = true ∧ other.valid = true ∧ (Instr.wrPad 7 0xFF#8).wf other = true ∧ (Instr.invalid 0xFF#8).wf other = true
    ∧ (Instr.secWriteM (.handed small) 39 9 []).wf dflt = true ∧ (Instr.wrPad 8 0xFF#8).wf other = false ∧ 17 < other.window
    ∧ (∀ o ∈ dflt.regOffset.toList, o < 10) ∧ 10 ≤ 10 ∧ 15 < dflt.window := by decide

/-- WindowAddressDecoding: the last address inside, the first above and the last below. -/
theorem witness_window :
    ({ withA with cfg := other, inbox := [.mem 0xF011 .rd] } : State).inbox = .mem 0xF011 .rd :: []
    ∧ 0xF011 = other.fdcBase + 17 ∧ 17 < other.window ∧ other.fdcBase + other.window ≤ 0xF012 ∧ 0xEFFF < other.fdcBase
    ∧ other.window ≤ 18 := by decide

/-- StepRunsDecodedOperation: a request that decodes, a bus operation on a unit interface, an ill-formed unit operation, a word. -/
theorem witness_step :
    decode dflt (.reg 0x4 (.wr 0xFF#8)) = .ok (.wrTrack 0xFF#8) ∧ withA.inbox = []
    ∧ Instr.rdStatus.format ≠ .unit ∧ (Instr.crcVerify []).format = .unit ∧ (Instr.crcVerify []).wf dflt = false ∧ 255 < 256 :=
  ⟨rfl, rfl, by decide, rfl, rfl, by decide⟩

/-- StepKeepsInvariants: a state that meets the invariants, with a request whose step has a next state. -/
theorem witness_stepKeepsInvariants :
    Inv { seeking with inbox := [.unit .fire] } ∧ ∃ t, step { seeking with inbox := [.unit .fire] } = .next t :=
  ⟨⟨inv_seeking.1, inv_seeking.2, inv_seeking.3, inv_seeking.4, inv_seeking.5, inv_seeking.6, inv_seeking.7, inv_seeking.8,
    inv_seeking.9, inv_seeking.10, inv_seeking.11, inv_seeking.12⟩, _, rfl⟩

/-- BusAccessNeverFails: the three kinds of phase, and a transfer; a dropped and an accepted COMMAND write. -/
theorem witness_busAccess :
    Inv (writing 511) ∧ Inv seeking ∧ Inv (reading 2) ∧ (Instr.wrPad 5 0x00#8).wf seeking.cfg = true ∧ 15 < seeking.cfg.window
    ∧ (Instr.wrData 0x00#8).format ≠ .unit ∧ Instr.rdData.format ≠ .unit
    ∧ isBusy seeking = true ∧ ∃ t, exec (.wrCommand 0x01#8) withA = .next t :=
  ⟨inv_writing 511 (by decide), inv_seeking, inv_reading, by decide, by decide, by decide, by decide, by decide, _, rfl⟩

/-- NoOperationWritesParameters. -/
theorem witness_noOperationWritesParameters : ∃ t, exec .reset withA = .next t := ⟨_, rfl⟩

/-- PhaseChangesOnlyAsTabled: one witness for each transition. -/
theorem witness_phaseChanges :
    Inv withA ∧ Inv (writing 511) ∧ Inv seeking ∧ Instr.reset.wf withA.cfg = true ∧ Instr.writeSector.wf withA.cfg = true ∧ Instr.fire.wf seeking.cfg = true
    ∧ after (·.phase) (exec .writeSector withA) = some .awaitingData ∧ after (·.phase) (exec .seekTrack withA) = some .seekPending
    ∧ after (·.phase) (exec .readId withA) = some .idle ∧ after (·.phase) (exec (.wrData 0x00#8) (writing 511)) = some .idle
    ∧ after (·.phase) (exec .fire seeking) = some .idle ∧ after (·.phase) (exec .reset seeking) = some .idle :=
  ⟨inv_withA, inv_writing 511 (by decide), inv_seeking, by decide +kernel⟩

/-- NoBusAccessDisturbsCommandInFlight: the 511th DATA write, and a dropped COMMAND write. -/
theorem witness_noBusAccessDisturbs :
    Inv (writing 510) ∧ isBusy (writing 510) = true ∧ (Instr.wrData 0x00#8).format ≠ .unit ∧ (writing 510).xferIdx ≠ 511
    ∧ (∃ t, exec (.wrData 0x00#8) (writing 510) = .next t) ∧ ∃ t, exec (.wrCommand 0x01#8) (writing 510) = .next t :=
  ⟨inv_writing 510 (by decide), by decide, by decide, by decide, ⟨_, rfl⟩, ⟨_, rfl⟩⟩

/-- SlotsChangeOnlyThroughArbiterAndHost. -/
theorem witness_slotsChangeOnly :
    mayChangeSlots (writing 510) (.wrData 0x00#8) = false ∧ mayChangeSlots seeking .formatTrack = false
    ∧ mayChangeSlots withA (.secWrite (.handed small) 0 1 (fill 0x00#8)) = false
    ∧ (∃ t, exec (.wrData 0x00#8) (writing 510) = .next t) ∧ ∃ t, exec .formatTrack seeking = .next t :=
  ⟨by decide, by decide, by decide, ⟨_, rfl⟩, ⟨_, rfl⟩⟩

/-- InterruptFlagChangesOnlyAsRuled: SENSE_INTERRUPT and reset clear the flag; FIRE, the 512th DATA write and READ_ID set it. -/
theorem witness_interruptFlag :
    withA.cfg.valid = true ∧ (writing 511).irqPending = false ∧
    after (·.irqPending) (exec .senseInterrupt { withA with irqPending := true }) = some false
    ∧ after (·.irqPending) (exec .reset { withA with irqPending := true }) = some false
    ∧ after (·.irqPending) (exec .fire seeking) = some true
    ∧ after (·.irqPending) (exec (.wrData 0x00#8) (writing 511)) = some true
    ∧ after (·.irqPending) (exec .readId (at' 0x00#8 0x01#8 withA)) = some true := by decide +kernel

/-- CompletionWritesCodeAndClearsBusy. -/
theorem witness_completion : withA.cfg.valid = true := by decide

/-- CommandWriteRunsSelectedCommand, and the command statements: an idle state and a busy one. -/
theorem witness_commandWrite :
    isBusy withA = false ∧ isBusy seeking = true ∧ commandByte dflt (.wrCommand 0x02#8) = some 0x02#8
    ∧ commandByte dflt .readSector = some 0x01#8 := by decide

/-- ReadSectorOutcomes: no drive, a bad sector on each side, the last sector; the check off, passing and failing. -/
theorem witness_readSector :
    isBusy withA = false ∧ withA.slotOf (driveOf dflt 0x02#8) = none ∧ withA.slotOf (driveOf dflt 0x00#8) = some ⟨small, false⟩
    ∧ locateIn dflt small 39 0 = .error .outOfBounds ∧ locateIn dflt small 39 10 = .error .outOfBounds
    ∧ locateIn dflt small 39 9 = .ok 183808 ∧ dflt.crcCheckOnRead = false
    ∧ crcVerify dflt (small.slice 183808 512) = true ∧ crcVerify dflt (small.slice 0 512) = false :=
  ⟨by decide, rfl, rfl, rfl, rfl, rfl, rfl, by decide +kernel, by decide +kernel⟩

/-- WriteSectorEntersDataPhase, DeferredCommandsSchedule, ReadStatusDeliversDriveStatus, SenseInterruptReportsAndClears. -/
theorem witness_idle_commands :
    isBusy withA = false ∧ (∃ t u, exec .senseInterrupt withA = .next t ∧ exec .senseInterrupt t = .next u) :=
  ⟨by decide, _, _, rfl, rfl⟩

/-- FireCompletesPending, and StepsOutsideTheirPreconditionsAreRefused: the lengths just off a sector; nothing pending. -/
theorem witness_fire :
    seeking.phase = .seekPending ∧ seeking.pend = some ⟨.ok, 10⟩ ∧ withA.phase ≠ .seekPending ∧ withA.pend = none
    ∧ (List.replicate 511 0x00#8).length ≠ 512 ∧ (List.replicate 513 0x00#8).length % 512 ≠ 0 := by decide +kernel

/-- FormatTrackOutcomes: no drive, the last track, the first one past it. -/
theorem witness_formatTrack :
    isBusy withA = false ∧ withA.slotOf (driveOf dflt 0x01#8) = none ∧ driveOf dflt 0x00#8 = some .A
    ∧ withA.slot .A = some ⟨small, false⟩ ∧ locateIn dflt small 40 1 = .error .outOfBounds
    ∧ locateIn dflt small 39 1 = .ok 179712 := ⟨by decide, rfl, rfl, rfl, rfl, rfl⟩

/-- ReadIdProbesAddress, LocateFollowsGeometry, SlotReadAnswersTheSector: the ends of the ranges on both images. -/
theorem witness_validOn :
    ValidOn small 39 9 ∧ ValidOn small 0 1 ∧ ¬ValidOn small 40 1 ∧ ¬ValidOn small 0 0 ∧ ¬ValidOn small 0 10
    ∧ ValidOn big 79 9 ∧ ¬ValidOn big 80 1 ∧ locate withA (some .A) 39 9 = .ok 183808 ∧ withA.slotOf (some .A) = some ⟨small, false⟩ ∧ withA.slotOf (some .B) = none
    ∧ withA.slotOf none = none := by
  refine ⟨?_, ?_, ?_, ?_, ?_, ?_, ?_, rfl, rfl, rfl, rfl⟩ <;> (simp only [ValidOn, small, big]; decide)

/-- UnknownCommandCompletesInvalid: the first bytes on each side of the opcodes, and the last byte. -/
theorem witness_unknownCommand :
    isBusy withA = false ∧ 0x00#8 ∉ withA.cfg.opc.toList ∧ 0x09#8 ∉ withA.cfg.opc.toList ∧ 0xFF#8 ∉ withA.cfg.opc.toList := by decide

/-- DataReadAdvancesTransfer and MissingBufferByteFaults: a transfer on its last byte, none, and one past the buffer. -/
theorem witness_rdData :
    withA.rdActive = false ∧ (reading 2).rdActive = true ∧ (reading 2).buf[(reading 2).xferIdx]? = some 0x00#8
    ∧ (reading 512).rdActive = true ∧ (reading 512).buf[(reading 512).xferIdx]? = none := ⟨rfl, rfl, rfl, rfl, by decide +kernel⟩

/-- DataWriteStoresAndFeeds, LastDataWriteCommits and MissingBufferByteFaults: outside the phase, bytes 511, 512 and one too many. -/
theorem witness_wrData :
    withA.phase ≠ .awaitingData ∧ (writing 510).phase = .awaitingData ∧ (writing 510).xferIdx < 511
    ∧ (writing 511).phase = .awaitingData ∧ (writing 511).xferIdx = 511 ∧ 512 ≤ (writing 512).xferIdx := by decide

/-- LastDataWriteCommits: no drive, a bad address, the last sector of the drive latched. -/
theorem witness_lastDataWrite :
    (writing 511).buf.length = 512 ∧ (writing 511).slotOf (driveOf dflt 0x01#8) = none
    ∧ driveOf dflt (writing 511).wrDrive = some .A ∧ (writing 511).slot .A = some ⟨small, false⟩
    ∧ locateIn dflt small 0 10 = .error .outOfBounds ∧ locateIn dflt small 39 9 = .ok 183808 :=
  ⟨reset_buf_length, rfl, rfl, rfl, rfl, rfl⟩

/-- ReadTransferDeliversBuffer: the last byte of a transfer of three. -/
theorem witness_readTransfer :
    (reading 0).rdActive = true ∧ (reading 0).xferIdx = 0 ∧ (reading 0).buf.length = 512 ∧ (reading 0).xferLimit ≤ 512
    ∧ 2 < (reading 0).xferLimit := by decide +kernel

/-- WriteDataPhaseCommitsItsBytes: 512 bytes with a side access among them; the commit fails on B and succeeds on A. -/
theorem witness_writeDataPhase :
    (writing 0).phase = .awaitingData ∧ (writing 0).rdActive = false ∧ (writing 0).xferIdx = 0 ∧ (writing 0).buf.length = 512
    ∧ (writing 0).pad.length = (writing 0).cfg.padBytes
    ∧ (∀ i ∈ Instr.rdPad 5 :: (fill 0xAA#8).map .wrData, i.wf (writing 0).cfg = true)
    ∧ (∀ i ∈ Instr.rdPad 5 :: (fill 0xAA#8).map .wrData, isSideAccess i = true ∨ ∃ v, i = .wrData v)
    ∧ (Instr.rdPad 5 :: (fill 0xAA#8).map .wrData).filterMap dataWritten = fill 0xAA#8 ∧ (fill 0xAA#8).length = 512
    ∧ arbWrite (writing 0) (some .B) 1 2 (fill 0xAA#8) = .error .notReady
    ∧ ∃ u, arbWrite (writing 0) (driveOf dflt 0x00#8) 1 2 (fill 0xAA#8) = .ok u := by
  refine ⟨rfl, rfl, rfl, reset_buf_length, rfl, by decide +kernel, ?_, by decide +kernel, by decide +kernel, rfl, _, rfl⟩
  intro i hi
  rcases List.mem_cons.mp hi with rfl | hi
  · exact .inl rfl
  · obtain ⟨v, _, rfl⟩ := List.mem_map.mp hi
    exact .inr ⟨v, rfl⟩

/-- RegisterProtocolRoundTrip: the last sector of drive A, the last byte. -/
theorem witness_roundTrip :
    (at' 0x27#8 0x09#8 withA).cfg.valid = true ∧ isBusy (at' 0x27#8 0x09#8 withA) = false
    ∧ (at' 0x27#8 0x09#8 withA).buf.length = 512 ∧ (fill 0xAA#8).length = 512 ∧ dflt.crcCheckOnRead = false
    ∧ crcVerify dflt (fill 0x00#8) = true ∧ driveOf dflt withA.driveSelect = some .A
    ∧ withA.slot .A = some ⟨small, false⟩ ∧ ValidOn small (0x27#8).toNat (0x09#8).toNat
    ∧ 511 < limit dflt withA.dmaCount :=
  ⟨by decide, by decide, reset_buf_length, by decide +kernel, rfl, by decide +kernel, rfl, rfl,
    by simp only [ValidOn, small]; decide, by decide⟩

/-- CrcOperationsAnswer, CrcVerifyAcceptsExactlyTheCrc, CrcResidueIsZero, CrcDetectsOneChangedByte: a sector that verifies, the last
covered byte, a byte it does not hold. -/
theorem witness_crc :
    (List.replicate 510 0x00#8).length = 510 ∧ (List.replicate 510 0x00#8)[509]? ≠ some 0x01#8
    ∧ crcVerify dflt (List.replicate 510 0x00#8 ++ [0x00#8, 0x00#8]) = true ∧ dflt.crcXorOut = 0x0000#16 := by decide +kernel

/-- TranslatorAnswers, TranslationsAreInverse: the ends of the ranges and the values past them. -/
theorem witness_translator :
    InRange 39 9 ∧ InRange 0 1 ∧ 39 < 40 ∧ 0 < 1 ∧ 9 < 10 ∧ 359 ≤ 359 ∧ 359 < 360 ∧ p2l 39 9 = .ok 359 ∧ l2p 359 = .ok (39, 9)
    ∧ p2l 38 9 = .ok 350 :=
  ⟨by unfold InRange; decide, by unfold InRange; decide, by decide, by decide, by decide, by decide, by decide, rfl, rfl, rfl⟩

/-- The buffer-level statements: a handed buffer and an image of a slot; the last sector, a run that ends with it, the last
track; each one step past its range; a slot with no image. -/
theorem witness_buffers :
    bufferOf withA (.handed ⟨184320, []⟩) = .ok ⟨184320, []⟩ ∧ bufferOf withA (.slot (some .A)) = .ok small ∧ InRange 39 9
    ∧ (39 * 9 + (9 - 1)) * 512 + 512 ≤ 184320 ∧ 39 * 9 + (9 - 1) + 1 ≤ 360 ∧ (39 * 9 + (9 - 1) + 1) * 512 ≤ 184320
    ∧ ¬InRange 40 9 ∧ 360 < 39 * 9 + (9 - 1) + 2 ∧ 184319 < (39 * 9 + (9 - 1)) * 512 + 512 ∧ (fill 0xAA#8).length = 1 * 512
    ∧ 39 * 4608 + 4608 ≤ 184320 ∧ 184319 < 39 * 4608 + 4608 ∧ withA.slotOf (some .B) = none :=
  ⟨rfl, rfl, by unfold InRange; decide, by decide, by decide, by decide, by unfold InRange; decide, by decide, by decide,
    by decide +kernel, by decide, by decide, rfl⟩

/-- SlotWriteReadsBack, SlotFormatZeroesTheTrack: no image, the last sector and track, an address past them. -/
theorem witness_slotLevel :
    (fill 0xAA#8).length = 512 ∧ withA.slotOf none = none ∧ withA.slot .A = some ⟨small, false⟩
    ∧ locateIn dflt small 40 1 = .error .outOfBounds ∧ locateIn dflt small 39 9 = .ok 183808
    ∧ locateIn dflt small 39 1 = .ok 179712 :=
  ⟨by decide +kernel, rfl, rfl, rfl, rfl, rfl⟩

/-- MountInstallsOrFails: both lengths, one byte more and one less, an empty slot and an occupied one. -/
theorem witness_mount :
    (ByteSeq.zeros 368640).len = 368640 ∧ big.len = 737280 ∧ withA.slot .B = none ∧ withA.slot .A ≠ none
    ∧ (ByteSeq.zeros 368641).len ≠ 368640 ∧ (ByteSeq.zeros 368641).len ≠ 737280 ∧ (ByteSeq.zeros 737279).len ≠ 368640
    ∧ (ByteSeq.zeros 737279).len ≠ 737280 := by decide

/-- UnmountPersistsThenReleases, PersistClearsDirty: a clean slot, a dirty one, an empty one. -/
theorem witness_unmount :
    withA.slot .A = some ⟨small, false⟩ ∧ ({ withA with slotA := some ⟨small, true⟩ } : State).slot .A = some ⟨small, true⟩
    ∧ withA.slotOf (some .B) = none := by decide

/-- HostImageReadsOrReplaces: the last byte of the image and the offset past it; distinct offsets; no image. -/
theorem witness_hostImage :
    withA.slot .A = some ⟨small, false⟩ ∧ (∀ o ∈ [0, 368639], o < small.len) ∧ (∀ c ∈ [(368639, 0x01#8)], c.1 < small.len)
    ∧ ([(368639, 0x01#8)].map Prod.fst).Nodup ∧ (∃ o ∈ [368640], small.len ≤ o) ∧ (∃ c ∈ [(368640, 0x01#8)], small.len ≤ c.1)
    ∧ withA.slotOf (some .B) = none := by decide

/-- PlainReadsAnswerStoredByte, PlainWritesStoreTheByte, MissingBufferByteFaults: the last pass-through byte and the one past it. -/
theorem witness_pad : withA.pad[5]? = some 0x00#8 ∧ 5 < withA.pad.length ∧ withA.pad.length ≤ 6 := by decide

end Sys2Proof.Tests
end

section
/-! What one step does: a rule for each branch of `step`, what the decoder makes of a request on a unit interface, and what placing
a command byte does to the inbox. -/

namespace Sys2Proof

/-! ## Unit requests -/

/-- R90: only an operation of format UNIT is invoked on an internal interface. -/
theorem decode_unit_of_format_ne {p : Config.Params} {op : Instr} (hf : op.format ≠ .unit) :
    decode p (.unit op) = .error .notAUnitOperation :=
  if_neg hf

/-- R157, R159, U21: the operand types exclude an ill-formed operation. -/
theorem decode_unit_of_not_wf {p : Config.Params} {op : Instr} (hf : op.format = .unit) (hwf : op.wf p = false) :
    decode p (.unit op) = .error .illFormed := by
  simp [decode, hf, hwf]

end Sys2Proof

namespace Sys2Proof.Machine

/-! ## The branches of a step -/

theorem step_of_inbox_nil {s : State} (hin : s.inbox = []) : step s = .next s := by
  simp only [step, hin]

theorem step_of_decode_ok {s : State} {r : Request} {rest : List Request} {i : Instr} (hin : s.inbox = r :: rest)
    (hdec : decode s.cfg r = .ok i) : step s = exec i { s with inbox := rest } := by
  simp only [step, hin, hdec]

/-- An access outside the window is the one rejection that is no refusal (R202). -/
theorem step_of_decode_error {s : State} {r : Request} {rest : List Request} {e : DecodeError} (hin : s.inbox = r :: rest)
    (hdec : decode s.cfg r = .error e) (he : e ≠ .outsideWindow) : step s = .refused (.undecodable e) := by
  cases e with
  | outsideWindow => exact absurd rfl he
  | illFormed => simp only [step, hin, hdec]
  | notAUnitOperation => simp only [step, hin, hdec]

/-! ## The word of a command row -/

theorem withFetchWord_command (s : State) {w : Nat} (hw : w < 256) :
    s.withFetchWord 8 w = { s with inbox := .cmd (BitVec.ofNat 8 w) :: s.inbox } := by
  simp [State.withFetchWord, wordRequest, hw]

/-- The step after a command byte is placed takes that byte from the inbox, and so runs its command on the state it was placed in. -/
theorem step_withFetchWord_command (s : State) {w : Nat} (hw : w < 256) :
    step (s.withFetchWord 8 w) = exec (decodeCommand s.cfg (BitVec.ofNat 8 w)) s := by
  rw [withFetchWord_command s hw]
  exact step_of_decode_ok rfl rfl

/-- Settles O5: the first request decides the branch of `step`, and a placed command byte is the first request. -/
theorem stepRunsDecodedOperation : Obligations.StepRunsDecodedOperation := by
  refine ⟨fun _ _ _ _ => step_of_decode_ok, fun _ => step_of_inbox_nil, fun s rest op hin => ⟨fun hf => ?_, fun hf hwf => ?_⟩,
    fun s _ => step_withFetchWord_command s⟩
  · exact step_of_decode_error hin (decode_unit_of_format_ne hf) (by decide)
  · exact step_of_decode_error hin (decode_unit_of_not_wf hf hwf) (by decide)

end Sys2Proof.Machine
end

section
/-! What an operation can do to the state: one relation, `Effect`, with a constructor for each kind of change, and the theorem that
every operation's next state is one of them. What every operation keeps is then proved kind by kind. -/

namespace Sys2Proof.Machine

/-! ## The kinds of change -/

/-- The state with the fields set to fixed values that a plain register access, a query or a failed operation writes: DATA, the
operand registers (R24 to R30), and the model's own `result` and `freeIdx`. -/
def State.eraseOperands (s : State) : State :=
  { s with
    data := 0#8, driveSelect := 0#8, track := 0#8, sector := 0#8, dmaAddrLow := 0#8, dmaAddrHigh := 0#8, dmaCount := 0#8,
    control := 0#8, result := .none, freeIdx := 0 }

@[simp] theorem eraseOperands_cfg (s : State) : s.eraseOperands.cfg = s.cfg := rfl
@[simp] theorem eraseOperands_inbox (s : State) : s.eraseOperands.inbox = s.inbox := rfl

/-- The nine command bodies (R225 to R238). -/
inductive CommandBody : (State → State) → Prop where
  | readSector : CommandBody readSectorBody
  | writeSector : CommandBody writeSectorBody
  | seek : CommandBody seekBody
  | readStatus : CommandBody readStatusBody
  | formatTrack : CommandBody formatTrackBody
  | readId : CommandBody readIdBody
  | recalibrate : CommandBody recalibrateBody
  | senseInterrupt : CommandBody senseInterruptBody
  | invalid : CommandBody invalidBody

/-- Only slots change (and the model's own `result` and `freeIdx`), and image memory stays in canonical form. -/
structure SlotsRewritten (s t : State) : Prop where
  only  : ∃ a b r n, t = { s with slotA := a, slotB := b, result := r, freeIdx := n }
  memWf : s.memWf = true → t.memWf = true

/-- The byte step of a read transfer (R196): the byte goes to `R[DATA]`, and the last one ends the transfer. -/
def deliverByte (v : Byte) (s : State) : State :=
  { s with data := v, xferIdx := s.xferIdx + 1, rdActive := if s.xferIdx + 1 = s.xferLimit then false else true }

/-- What an operation with a next state can do to a state (`exec_effect`). -/
inductive Effect (s : State) : Instr → State → Prop where
  /-- A query, a dropped or failed request, or a plain write of DATA or an operand register. -/
  | plain {i : Instr} {t : State} (h : t.eraseOperands = s.eraseOperands) : Effect s i t
  /-- R201. -/
  | pad (k : Nat) (v : Byte) : Effect s (.wrPad k v) { s with pad := s.pad.set k v, result := .done }
  /-- An accepted COMMAND write (R193, R222). -/
  | command {i : Instr} {body : State → State} (v : Byte) (hbody : CommandBody body) (hidle : isBusy s = false) :
      Effect s i { body (accept v s) with result := .done }
  /-- R196, while a read transfer is enabled. -/
  | delivered (v : Byte) (hrd : s.rdActive = true) : Effect s .rdData { deliverByte v s with result := .byte v }
  /-- R197, a byte of the write data phase before the last. -/
  | fed (v : Byte) (hphase : s.phase = .awaitingData) (hlt : s.xferIdx + 1 < 512) :
      Effect s (.wrData v) { feedByte v s with result := .done }
  /-- R197, R227, the last byte of the write data phase. -/
  | committed (v : Byte) (hphase : s.phase = .awaitingData) (hlast : s.xferIdx + 1 = 512) :
      Effect s (.wrData v) { commit (feedByte v s) with result := .done }
  /-- The arbiter's writes and the host's steps on mounted images (R167, R168). -/
  | slots {i : Instr} {t : State} (h : SlotsRewritten s t) : Effect s i t
  /-- R171; the form of the new image is the operand's, so it is not among the slots rewritten. -/
  | mounted (d : Drive) (img : ByteSeq) (hlen : img.len = 368640 ∨ img.len = 737280) :
      Effect s (.hostMount (some d) (some img)) { s.setSlot d (some ⟨img, false⟩) with result := .bool true }
  /-- R240. -/
  | fired (p : Pending) (hphase : s.phase = .seekPending) (hpend : s.pend = some p) :
      Effect s .fire { complete p.code { s with seekDone := true, pend := none } with result := .done }
  /-- R290. -/
  | reset {t : State} (h : execReset s = .next t) : Effect s .reset t

/-! ## Rewriting slots -/

theorem SlotsRewritten.refl (s : State) : SlotsRewritten s s := ⟨⟨_, _, _, _, rfl⟩, id⟩

theorem SlotsRewritten.trans {s t u : State} (hst : SlotsRewritten s t) (htu : SlotsRewritten t u) : SlotsRewritten s u := by
  obtain ⟨⟨_, _, _, _, rfl⟩, hm⟩ := hst
  obtain ⟨⟨_, _, _, _, rfl⟩, hm'⟩ := htu
  exact ⟨⟨_, _, _, _, rfl⟩, hm' ∘ hm⟩

theorem slotsRewritten_result (s : State) (r : Result) : SlotsRewritten s { s with result := r } := ⟨⟨_, _, _, _, rfl⟩, id⟩

theorem slotsRewritten_freeIdx (s : State) (n : Nat) : SlotsRewritten s { s with freeIdx := n } := ⟨⟨_, _, _, _, rfl⟩, id⟩

theorem memWf_setSlot {s : State} {d : Drive} {x : Option Slot} (hs : s.memWf = true) (hx : ∀ sl, x = some sl → sl.wf = true) :
    (s.setSlot d x).memWf = true := by
  rw [memWf_iff] at *
  intro d' sl hsl
  rw [setSlot_slot] at hsl
  split at hsl
  · exact hx sl hsl
  · exact hs d' sl hsl

theorem slotsRewritten_setSlot {s : State} {d : Drive} {x : Option Slot}
    (hx : s.memWf = true → ∀ sl, x = some sl → sl.wf = true) : SlotsRewritten s (s.setSlot d x) where
  only := by cases d <;> exact ⟨_, _, _, _, rfl⟩
  memWf hs := memWf_setSlot hs (hx hs)

/-- An update of a mounted image that keeps its form and its length. -/
theorem slotsRewritten_image {s : State} {d : Drive} {sl : Slot} {img : ByteSeq} {dirty : Bool} (hsl : s.slot d = some sl)
    (himg : sl.wf = true → img.wf = true ∧ img.len = sl.img.len) :
    SlotsRewritten s (s.setSlot d (some ⟨img, dirty⟩)) := by
  refine slotsRewritten_setSlot fun hs x hx => ?_
  cases hx
  have hwf := (memWf_iff s).1 hs d sl hsl
  obtain ⟨hform, hlen⟩ := himg hwf
  rw [Slot.wf_iff]
  exact ⟨hform, by rw [hlen]; exact ((Slot.wf_iff sl).1 hwf).2⟩

theorem slotsRewritten_writeSector {s : State} {d : Drive} {sl : Slot} {track sector off : Nat} {data : List Byte}
    (hsl : s.slot d = some sl) (hloc : locateIn s.cfg sl.img track sector = .ok off) (hdata : data.length = 512) :
    SlotsRewritten s (s.setSlot d (some ⟨sl.img.write off data, true⟩)) :=
  slotsRewritten_image hsl fun hwf =>
    ⟨ByteSeq.wf_write _ _ _ ((Slot.wf_iff sl).1 hwf).1 (by rw [hdata]; exact locateIn_bound hwf hloc), rfl⟩

theorem slotsRewritten_clear {s : State} {d : Drive} {sl : Slot} {off n : Nat} (hsl : s.slot d = some sl) :
    SlotsRewritten s (s.setSlot d (some ⟨sl.img.clear off n, true⟩)) :=
  slotsRewritten_image hsl fun hwf => ⟨ByteSeq.wf_clear _ _ _ ((Slot.wf_iff sl).1 hwf).1, rfl⟩

theorem slotsRewritten_persistSlot (d : Drive) (io : IoOutcome) (s : State) : SlotsRewritten s (persistSlot d io s).st := by
  rcases persistSlot_st d io s with h | ⟨sl, hsl, h⟩ <;> rw [h]
  · exact .refl s
  · exact slotsRewritten_image hsl fun hwf => ⟨((Slot.wf_iff sl).1 hwf).1, rfl⟩

theorem slotsRewritten_unmountSlot (d : Drive) (io : IoOutcome) (s : State) : SlotsRewritten s (unmountSlot d io s).st := by
  rcases unmountSlot_st d io s with ⟨-, h⟩ | ⟨sl, -, -, h⟩ | ⟨sl, hsl, -, -, h⟩ <;> rw [h]
  · exact .refl s
  · exact slotsRewritten_setSlot fun _ x hx => nomatch hx
  · refine .trans (slotsRewritten_setSlot fun hs x hx => ?_) (slotsRewritten_freeIdx _ _)
    split at hx
    · cases hx
      exact (memWf_iff s).1 hs d sl hsl
    · cases hx

/-! ## What the shared answers can do -/

theorem Effect.of_answer {s s' t : State} {i : Instr} {r : Result} (h : answer r s' = .next t)
    (hs : s'.eraseOperands = s.eraseOperands) : Effect s i t := by
  obtain rfl := answer_next_iff.1 h
  exact .plain hs

theorem Effect.of_answer_slots {s s' t : State} {i : Instr} {r : Result} (h : answer r s' = .next t)
    (hs : SlotsRewritten s s') : Effect s i t := by
  obtain rfl := answer_next_iff.1 h
  exact .slots (hs.trans (slotsRewritten_result s' r))

theorem Effect.of_answerRead {s t : State} {i : Instr} {r : Except UnitFailure (List Byte)} (h : answerRead s r = .next t) :
    Effect s i t := by
  cases r with
  | error f => exact .of_answer h rfl
  | ok bytes => exact .of_answer h rfl

theorem Effect.of_answerSlotWrite {s t : State} {i : Instr} {r : Except UnitFailure State} (h : answerSlotWrite s r = .next t)
    (hr : ∀ s', r = .ok s' → SlotsRewritten s s') : Effect s i t := by
  cases r with
  | error f => exact .of_answer h rfl
  | ok s' => exact .of_answer_slots h (hr s' rfl)

/-- A buffer-level update that keeps form and length, of a handed buffer or of a mounted image (R155, R169). -/
theorem Effect.of_answerWrite {s t : State} {i : Instr} {b : BufRef} {f : ByteSeq → Except UnitFailure ByteSeq}
    (h : answerWrite s b ((bufferOf s b).bind f) = .next t)
    (hf : ∀ x x', f x = .ok x' → x.wf = true → x'.wf = true ∧ x'.len = x.len) : Effect s i t := by
  cases hr : (bufferOf s b).bind f with
  | error e => rw [hr] at h; exact .of_answer h rfl
  | ok b' =>
    rw [hr] at h
    cases b with
    | handed x => exact .of_answer h rfl
    | slot d =>
      cases hd : s.slotOf d with
      | none => simp [bufferOf, hd, Except.bind] at hr
      | some sl =>
        obtain ⟨e, rfl, hsl⟩ := slotOf_eq_some hd
        have hb' : f sl.img = .ok b' := by simpa [bufferOf, hsl, Except.bind] using hr
        exact .of_answer_slots h (slotsRewritten_image hsl fun hwf => hf _ _ hb' ((Slot.wf_iff sl).1 hwf).1)

theorem Effect.of_commandWrite {s t : State} {i : Instr} {v : Byte} {body : State → State} (hbody : CommandBody body)
    (h : commandWrite v body s = .next t) : Effect s i t := by
  rcases commandWrite_cases v body s with ⟨-, he⟩ | ⟨hidle, he⟩ <;> rw [he] at h <;> cases h
  · exact .plain rfl
  · exact .command v hbody hidle

/-! ## The buffer level keeps form and length -/

theorem secWrite_keeps_form {b b' : ByteSeq} {track sector : Nat} {data : List Byte} (hdata : data.length = 512)
    (h : secWrite b track sector data = .ok b') (hb : b.wf = true) : b'.wf = true ∧ b'.len = b.len := by
  unfold secWrite at h
  split at h
  · cases h
  · split at h
    · cases h
    · cases h
      exact ⟨ByteSeq.wf_write _ _ _ hb (by omega), rfl⟩

theorem secWriteM_keeps_form {b b' : ByteSeq} {track sector : Nat} {data : List Byte} (hdata : data.length % 512 = 0)
    (h : secWriteM b track sector data = .ok b') (hb : b.wf = true) : b'.wf = true ∧ b'.len = b.len := by
  unfold secWriteM at h
  cases hrun : secRun b track sector (data.length / 512) with
  | error f => rw [hrun] at h; cases h
  | ok l =>
    rw [hrun] at h
    cases h
    obtain ⟨-, -, -, hlen⟩ := secRun_ok hrun
    have hin : l * 512 + data.length ≤ b.len := by
      rwa [Nat.add_mul, Nat.div_mul_cancel (Nat.dvd_of_mod_eq_zero hdata)] at hlen
    exact ⟨ByteSeq.wf_write _ _ _ hb hin, rfl⟩

theorem secFormatTrack_keeps_form {b b' : ByteSeq} {track : Nat} (h : secFormatTrack b track = .ok b') (hb : b.wf = true) :
    b'.wf = true ∧ b'.len = b.len := by
  unfold secFormatTrack at h
  split at h
  · cases h
  · split at h
    · cases h
    · cases h
      exact ⟨ByteSeq.wf_clear _ _ _ hb, rfl⟩

theorem secFormatDisk_keeps_form {b b' : ByteSeq} (h : secFormatDisk b = .ok b') (hb : b.wf = true) :
    b'.wf = true ∧ b'.len = b.len := by
  unfold secFormatDisk at h
  split at h
  · cases h
  · cases h
    exact ⟨ByteSeq.wf_clear _ _ _ hb, rfl⟩

/-! ## What each operation can do -/

/-- A COMMAND write that is accepted runs one of the nine bodies on the accepted state (R222). -/
theorem issue_eq_body (v : Byte) (s : State) : ∃ body, CommandBody body ∧ issue v s = body (accept v s) := by
  unfold issue
  split_ifs
  · exact ⟨_, .readSector, rfl⟩
  · exact ⟨_, .writeSector, rfl⟩
  · exact ⟨_, .seek, rfl⟩
  · exact ⟨_, .readStatus, rfl⟩
  · exact ⟨_, .formatTrack, rfl⟩
  · exact ⟨_, .readId, rfl⟩
  · exact ⟨_, .recalibrate, rfl⟩
  · exact ⟨_, .senseInterrupt, rfl⟩
  · exact ⟨_, .invalid, rfl⟩

theorem effect_of_execWrCommand {s t : State} {v : Byte} (h : execWrCommand v s = .next t) : Effect s (.wrCommand v) t := by
  obtain ⟨body, hbody, he⟩ := issue_eq_body v s
  have hcw : execWrCommand v s = commandWrite v body s := by rw [execWrCommand, he]; rfl
  exact .of_commandWrite hbody (hcw ▸ h)

theorem effect_of_execRdData {s t : State} (h : execRdData s = .next t) : Effect s .rdData t := by
  unfold execRdData at h
  split at h
  · next hrd =>
    split at h
    · cases h
    · cases h
      exact .delivered _ hrd
  · exact .of_answer h rfl

theorem effect_of_execWrData {s t : State} {v : Byte} (h : execWrData v s = .next t) : Effect s (.wrData v) t := by
  unfold execWrData at h
  split at h
  · next hphase =>
    split at h
    · next hlt =>
      split at h
      · next hlast => cases h; exact .committed v hphase hlast
      · next hlast => cases h; exact .fed v hphase (lt_of_le_of_ne hlt hlast)
    · cases h
  · exact .of_answer h rfl

theorem effect_of_execRdPad {s t : State} {k : Nat} (h : execRdPad k s = .next t) : Effect s (.rdPad k) t := by
  unfold execRdPad at h
  split at h
  · cases h
  · exact .of_answer h rfl

theorem effect_of_execWrPad {s t : State} {k : Nat} {v : Byte} (h : execWrPad k v s = .next t) : Effect s (.wrPad k v) t := by
  unfold execWrPad at h
  split at h
  · cases h; exact .pad k v
  · cases h

theorem effect_of_execCrcVerify {s t : State} {sector : List Byte} (h : execCrcVerify sector s = .next t) :
    Effect s (.crcVerify sector) t := by
  unfold execCrcVerify at h
  split at h
  · exact .of_answer h rfl
  · cases h

theorem effect_of_execSatP2L {s t : State} {track sector : Nat} (h : execSatP2L track sector s = .next t) :
    Effect s (.satP2L track sector) t := by
  unfold execSatP2L at h
  split at h <;> exact .of_answer h rfl

theorem effect_of_execSatL2P {s t : State} {index : Nat} (h : execSatL2P index s = .next t) : Effect s (.satL2P index) t := by
  unfold execSatL2P at h
  split at h <;> exact .of_answer h rfl

theorem effect_of_execSecWrite {s t : State} {b : BufRef} {track sector : Nat} {data : List Byte}
    (h : execSecWrite b track sector data s = .next t) : Effect s (.secWrite b track sector data) t := by
  unfold execSecWrite at h
  split at h
  · next hdata => exact .of_answerWrite h fun _ _ => secWrite_keeps_form hdata
  · cases h

theorem effect_of_execSecWriteM {s t : State} {b : BufRef} {track sector : Nat} {data : List Byte}
    (h : execSecWriteM b track sector data s = .next t) : Effect s (.secWriteM b track sector data) t := by
  unfold execSecWriteM at h
  split at h
  · next hdata => exact .of_answerWrite h fun _ _ => secWriteM_keeps_form hdata
  · cases h

theorem effect_of_execArbWrite {s t : State} {d : Option Drive} {track sector : Nat} {data : List Byte}
    (h : execArbWrite d track sector data s = .next t) : Effect s (.arbWrite d track sector data) t := by
  unfold execArbWrite at h
  split at h
  · next hdata =>
    refine .of_answerSlotWrite h fun s' hok => ?_
    rcases arbWrite_cases s d track sector data with ⟨-, he⟩ | ⟨e, sl, -, -, -, he⟩ | ⟨e, sl, off, -, hsl, hloc, he⟩ <;>
      rw [he] at hok <;> cases hok
    exact slotsRewritten_writeSector hsl hloc hdata
  · cases h

theorem effect_of_execArbFmtTrk {s t : State} {d : Option Drive} {track : Nat} (h : execArbFmtTrk d track s = .next t) :
    Effect s (.arbFmtTrk d track) t := by
  refine .of_answerSlotWrite h fun s' hok => ?_
  rcases arbFormatTrack_cases s d track with ⟨-, he⟩ | ⟨e, sl, -, -, -, he⟩ | ⟨e, sl, off, -, hsl, -, he⟩ <;>
    rw [he] at hok <;> cases hok
  exact slotsRewritten_clear hsl

theorem effect_of_execHostMount {s t : State} {d : Option Drive} {image : Option ByteSeq}
    (h : execHostMount d image s = .next t) : Effect s (.hostMount d image) t := by
  unfold execHostMount at h
  split at h
  · exact .of_answer h rfl
  · exact .of_answer h rfl
  · split at h
    · exact .of_answer h rfl
    · next hlen =>
      split at h
      · cases h
      · cases h
        exact .mounted _ _ (by simpa only [not_and_or, not_not] using hlen)

theorem effect_of_execHostUnmount {s t : State} {d : Option Drive} {io : IoOutcome} (h : execHostUnmount d io s = .next t) :
    Effect s (.hostUnmount d io) t := by
  unfold execHostUnmount at h
  split at h
  · exact .of_answer h rfl
  · split at h
    · exact .of_answer h rfl
    · exact .of_answer_slots h (slotsRewritten_unmountSlot _ io s)

theorem effect_of_execHostPersist {s t : State} {d : Option Drive} {io : IoOutcome} (h : execHostPersist d io s = .next t) :
    Effect s (.hostPersist d io) t := by
  unfold execHostPersist at h
  split at h
  · exact .of_answer_slots h (slotsRewritten_persistSlot _ io s)
  · exact .of_answer h rfl

theorem effect_of_execHostImage {s t : State} {d : Option Drive} {op : ImageOp} (h : execHostImage d op s = .next t) :
    Effect s (.hostImage d op) t := by
  unfold execHostImage at h
  split at h
  · cases h
  · next sl hd =>
    obtain ⟨e, rfl, hsl⟩ := slotOf_eq_some hd
    split at h
    · split at h
      · exact .of_answer h rfl
      · cases h
    · next cells =>
      split at h
      · next hin =>
        have hin' : ∀ c ∈ cells, c.1 < sl.img.len := by simpa using hin
        exact .of_answer_slots h (slotsRewritten_image hsl fun hwf =>
          ⟨ByteSeq.wf_replace _ _ ((Slot.wf_iff sl).1 hwf).1 hin', ByteSeq.replace_len _ _⟩)
      · cases h

theorem effect_of_execFire {s t : State} (h : execFire s = .next t) : Effect s .fire t := by
  unfold execFire at h
  split at h
  · next p hphase hpend => cases h; exact .fired p hphase hpend
  · cases h

/-- Every operation's next state is one of the kinds of `Effect`. -/
theorem exec_effect {i : Instr} {s t : State} (h : exec i s = .next t) : Effect s i t := by
  cases i with
  | readSector => exact .of_commandWrite .readSector h
  | writeSector => exact .of_commandWrite .writeSector h
  | seekTrack => exact .of_commandWrite .seek h
  | readStatus => exact .of_commandWrite .readStatus h
  | formatTrack => exact .of_commandWrite .formatTrack h
  | readId => exact .of_commandWrite .readId h
  | recalibrate => exact .of_commandWrite .recalibrate h
  | senseInterrupt => exact .of_commandWrite .senseInterrupt h
  | invalid v => exact .of_commandWrite .invalid h
  | wrCommand v => exact effect_of_execWrCommand h
  | rdData => exact effect_of_execRdData h
  | wrData v => exact effect_of_execWrData h
  | rdPad k => exact effect_of_execRdPad h
  | wrPad k v => exact effect_of_execWrPad h
  | rdCommand | rdStatus | rdDriveSelect | rdTrack | rdSector | rdDmaAddrLow | rdDmaAddrHigh | rdDmaCount | rdControl =>
    exact .of_answer h rfl
  | wrStatus v | wrDriveSelect v | wrTrack v | wrSector v | wrDmaAddrLow v | wrDmaAddrHigh v | wrDmaCount v | wrControl v =>
    exact .of_answer h rfl
  | crcCompute data => exact .of_answer h rfl
  | crcVerify sector => exact effect_of_execCrcVerify h
  | satP2L track sector => exact effect_of_execSatP2L h
  | satL2P index => exact effect_of_execSatL2P h
  | secRead b track sector => exact .of_answerRead h
  | secReadM b track sector count => exact .of_answerRead h
  | arbRead d track sector => exact .of_answerRead h
  | secWrite b track sector data => exact effect_of_execSecWrite h
  | secWriteM b track sector data => exact effect_of_execSecWriteM h
  | secFmtTrk b track => exact .of_answerWrite h fun _ _ => secFormatTrack_keeps_form
  | secFmtDsk b => exact .of_answerWrite h fun _ _ => secFormatDisk_keeps_form
  | arbWrite d track sector data => exact effect_of_execArbWrite h
  | arbFmtTrk d track => exact effect_of_execArbFmtTrk h
  | hostMount d image => exact effect_of_execHostMount h
  | hostUnmount d io => exact effect_of_execHostUnmount h
  | hostPersist d io => exact effect_of_execHostPersist h
  | hostSaveAll ioA ioB =>
    exact .of_answer_slots h ((slotsRewritten_persistSlot .A ioA s).trans (slotsRewritten_persistSlot .B ioB _))
  | hostUnmountAll ioA ioB =>
    exact .of_answer_slots h ((slotsRewritten_unmountSlot .A ioA s).trans (slotsRewritten_unmountSlot .B ioB _))
  | hostCreate path is720KB io => exact .of_answer h rfl
  | hostImage d op => exact effect_of_execHostImage h
  | fire => exact effect_of_execFire h
  | reset => exact .reset h

end Sys2Proof.Machine
end

section
/-! What every operation keeps: the parameters and the inbox (R43), and the invariants of R44. -/

namespace Sys2Proof.Machine

/-! ## Parameters and inbox -/

theorem commit_params (s : State) : (commit s).cfg = s.cfg ∧ (commit s).inbox = s.inbox := by
  rcases commit_cases s with ⟨-, he⟩ | ⟨_, _, -, -, -, he⟩ | ⟨_, _, _, -, -, -, he⟩ <;> simp [he]

theorem CommandBody.params {body : State → State} (hbody : CommandBody body) (s : State) :
    (body s).cfg = s.cfg ∧ (body s).inbox = s.inbox := by
  cases hbody with
  | readSector =>
    rcases readSectorBody_cases s with ⟨_, -, he⟩ | ⟨_, _, _, -, -, -, he | he⟩ <;> rw [he] <;> exact ⟨rfl, rfl⟩
  | formatTrack =>
    rcases formatTrackBody_cases s with ⟨-, he⟩ | ⟨_, _, -, -, -, he⟩ | ⟨_, _, _, -, -, -, he⟩ <;> simp [he]
  | readId =>
    obtain ⟨_, -, he⟩ := readIdBody_cases s
    rw [he]
    exact ⟨rfl, rfl⟩
  | writeSector | seek | readStatus | recalibrate | senseInterrupt | invalid => exact ⟨rfl, rfl⟩

theorem Effect.params {s t : State} {i : Instr} (h : Effect s i t) : t.cfg = s.cfg ∧ t.inbox = s.inbox := by
  cases h with
  | plain h => exact ⟨by simpa using congrArg State.cfg h, by simpa using congrArg State.inbox h⟩
  | pad k v => exact ⟨rfl, rfl⟩
  | command v hbody hidle => exact hbody.params (accept v s)
  | delivered v hrd => exact ⟨rfl, rfl⟩
  | fed v hphase hlt => exact ⟨rfl, rfl⟩
  | committed v hphase hlast => exact commit_params (feedByte v s)
  | slots h => obtain ⟨⟨_, _, _, _, rfl⟩, -⟩ := h; exact ⟨rfl, rfl⟩
  | mounted d img hlen => exact ⟨setSlot_cfg s d _, setSlot_inbox s d _⟩
  | fired p hphase hpend => exact ⟨rfl, rfl⟩
  | reset h => cases h; exact ⟨rfl, rfl⟩

/-- Settles O11: no kind of change touches the parameters or the inbox. -/
theorem noOperationWritesParameters : Obligations.NoOperationWritesParameters :=
  fun _ _ _ h => (exec_effect h).params

/-! ## The status byte in the three phases -/

theorem bitMask_getLsbD_self (i : Fin 8) : (bitMask i).getLsbD i.val = true := by
  revert i; decide

theorem busyByte_getLsbD (p : Config.Params) : (busyByte p).getLsbD p.stbit.busy.val = true :=
  bitMask_getLsbD_self p.stbit.busy

theorem awaitByte_getLsbD (p : Config.Params) : (awaitByte p).getLsbD p.stbit.busy.val = true := by
  simp only [awaitByte, BitVec.getLsbD_or, bitMask_getLsbD_self, Bool.true_or]

theorem isCode_toByte (c : StatusCode) : isCode c.toByte := by
  cases c <;> simp [isCode, StatusCode.toByte]

/-- The codes have their low four bits clear, which is why R101 puts BUSY there. -/
theorem isCode.getLsbD_low {b : Byte} (hb : isCode b) {n : Nat} (hn : n < 4) : b.getLsbD n = false := by
  have hcodes : ∀ k : Fin 4, ∀ c ∈ [0x00#8, 0x10#8, 0x20#8, 0x40#8, 0x50#8, 0x80#8], c.getLsbD k.val = false := by decide
  exact hcodes ⟨n, hn⟩ b (by simpa [isCode] using hb)

/-! ## The invariants, phase by phase -/

/-- The invariants that do not speak of the phase: parameters, lengths, ranges and image memory. -/
structure WellSized (s : State) : Prop where
  cfgValid   : s.cfg.valid = true
  bufLength  : s.buf.length = 512
  idxLe      : s.xferIdx ≤ 512
  limitRange : 1 ≤ s.xferLimit ∧ s.xferLimit ≤ 512
  slots      : s.memWf = true
  padLength  : s.pad.length = s.cfg.padBytes

theorem Inv.wellSized {s : State} (hs : Inv s) : WellSized s :=
  ⟨hs.cfgValid, hs.bufLength, hs.idxLe, hs.limitRange, hs.slots, hs.padLength⟩

theorem Inv.idle_of_not_busy {s : State} (hs : Inv s) (hb : isBusy s = false) : s.phase = .idle := by
  by_contra hne
  exact absurd (hs.busyIff.2 hne) (by simp [hb])

theorem inv_of_idle {s : State} (hw : WellSized s) (hphase : s.phase = .idle) (hcode : isCode s.status) (hpend : s.pend = none)
    (hread : s.rdActive = true → s.status = 0x00#8 ∧ s.xferIdx < s.xferLimit) : Inv s where
  cfgValid := hw.cfgValid
  bufLength := hw.bufLength
  idxLe := hw.idxLe
  limitRange := hw.limitRange
  busyIff := by
    obtain ⟨-, -, hlow, -⟩ := (params_valid_iff s.cfg).1 hw.cfgValid
    have hbusy : isBusy s = false := hcode.getLsbD_low hlow
    simp [hbusy, hphase]
  awaiting h := by simp [hphase] at h
  seeking h := by simp [hphase] at h
  noPending _ := hpend
  reading h := ⟨hphase, hread h⟩
  idleCode _ := hcode
  slots := hw.slots
  padLength := hw.padLength

theorem inv_of_awaiting {s : State} (hw : WellSized s) (hphase : s.phase = .awaitingData) (hstatus : s.status = awaitByte s.cfg)
    (hidx : s.xferIdx < 512) (hrd : s.rdActive = false) (hpend : s.pend = none) : Inv s where
  cfgValid := hw.cfgValid
  bufLength := hw.bufLength
  idxLe := hw.idxLe
  limitRange := hw.limitRange
  busyIff := by simp [isBusy, hstatus, awaitByte_getLsbD, hphase]
  awaiting _ := ⟨hstatus, hidx, hrd⟩
  seeking h := by simp [hphase] at h
  noPending _ := hpend
  reading h := by simp [hrd] at h
  idleCode h := by simp [hphase] at h
  slots := hw.slots
  padLength := hw.padLength

theorem inv_of_seeking {s : State} (hw : WellSized s) (hphase : s.phase = .seekPending) (hstatus : s.status = busyByte s.cfg)
    (hrd : s.rdActive = false) (hpend : s.pend = some ⟨.ok, 10⟩ ∨ s.pend = some ⟨.ok, 100⟩) : Inv s where
  cfgValid := hw.cfgValid
  bufLength := hw.bufLength
  idxLe := hw.idxLe
  limitRange := hw.limitRange
  busyIff := by simp [isBusy, hstatus, busyByte_getLsbD, hphase]
  awaiting h := by simp [hphase] at h
  seeking _ := ⟨hstatus, hrd, hpend⟩
  noPending h := absurd hphase h
  reading h := by simp [hrd] at h
  idleCode h := by simp [hphase] at h
  slots := hw.slots
  padLength := hw.padLength

/-- A completion leaves the block idle with a code in STATUS (R223); only a successful one may leave a read transfer enabled. -/
theorem inv_complete {s : State} {c : StatusCode} (hw : WellSized s) (hpend : s.pend = none)
    (hread : s.rdActive = true → c = .ok ∧ s.xferIdx < s.xferLimit) : Inv (complete c s) := by
  refine inv_of_idle { hw with } rfl (isCode_toByte c) hpend fun hrd => ?_
  obtain ⟨rfl, hidx⟩ := hread hrd
  exact ⟨rfl, hidx⟩

/-! ## Changes the invariants do not see -/

theorem inv_eraseOperands_iff (s : State) : Inv s.eraseOperands ↔ Inv s := ⟨fun h => { h with }, fun h => { h with }⟩

theorem Inv.of_eraseOperands_eq {s t : State} (hs : Inv s) (h : t.eraseOperands = s.eraseOperands) : Inv t :=
  (inv_eraseOperands_iff t).1 (h ▸ (inv_eraseOperands_iff s).2 hs)

theorem Inv.with_result {s : State} (hs : Inv s) (r : Result) : Inv { s with result := r } := hs.of_eraseOperands_eq rfl

theorem Inv.with_inbox {s : State} (hs : Inv s) (rest : List Request) : Inv { s with inbox := rest } := { hs with }

theorem Inv.of_slotsRewritten {s t : State} (hs : Inv s) (h : SlotsRewritten s t) : Inv t := by
  obtain ⟨⟨_, _, _, _, rfl⟩, hwf⟩ := h
  exact { hs with slots := hwf hs.slots }

theorem WellSized.of_slotsRewritten {s t : State} (hw : WellSized s) (h : SlotsRewritten s t) : WellSized t := by
  obtain ⟨⟨_, _, _, _, rfl⟩, hwf⟩ := h
  exact { hw with slots := hwf hw.slots }

/-! ## The command bodies -/

/-- An accepted COMMAND write, before its body runs (R222). -/
structure Accepted (s : State) : Prop where
  sized  : WellSized s
  phase  : s.phase = .idle
  status : s.status = busyByte s.cfg
  noRead : s.rdActive = false
  noPend : s.pend = none

theorem Inv.accepted {s : State} (hs : Inv s) (hidle : isBusy s = false) (v : Byte) : Accepted (accept v s) where
  sized := { hs.wellSized with }
  phase := hs.idle_of_not_busy hidle
  status := rfl
  noRead := rfl
  noPend := hs.noPending (by simp [hs.idle_of_not_busy hidle])

theorem Accepted.inv_complete {s : State} (ha : Accepted s) (c : StatusCode) : Inv (complete c s) :=
  Machine.inv_complete ha.sized ha.noPend (by simp [ha.noRead])

theorem Accepted.inv_readSectorBody {s : State} (ha : Accepted s) : Inv (readSectorBody s) := by
  rcases readSectorBody_cases s with ⟨c, -, he⟩ | ⟨e, sl, off, -, -, -, he | he⟩ <;> rw [he]
  · exact Machine.inv_complete { ha.sized with } ha.noPend (by simp [ha.noRead])
  · exact Machine.inv_complete { ha.sized with bufLength := ByteSeq.slice_length _ _ _ } ha.noPend (by simp [ha.noRead])
  · have hlim := limit_range ha.sized.cfgValid s.dmaCount
    exact Machine.inv_complete
      { ha.sized with bufLength := ByteSeq.slice_length _ _ _, idxLe := Nat.zero_le _, limitRange := hlim } ha.noPend
      fun _ => ⟨rfl, hlim.1⟩

theorem Accepted.inv_writeSectorBody {s : State} (ha : Accepted s) : Inv (writeSectorBody s) :=
  inv_of_awaiting { ha.sized with idxLe := Nat.zero_le _ } rfl rfl (Nat.zero_lt_succ 511) ha.noRead ha.noPend

theorem Accepted.inv_formatTrackBody {s : State} (ha : Accepted s) : Inv (formatTrackBody s) := by
  rcases formatTrackBody_cases s with ⟨-, he⟩ | ⟨e, sl, -, -, -, he⟩ | ⟨e, sl, off, -, hsl, -, he⟩ <;> rw [he]
  · exact ha.inv_complete _
  · exact ha.inv_complete _
  · exact Machine.inv_complete (ha.sized.of_slotsRewritten (slotsRewritten_clear hsl)) (by simp [ha.noPend]) (by simp [ha.noRead])

theorem Accepted.inv_readIdBody {s : State} (ha : Accepted s) : Inv (readIdBody s) := by
  obtain ⟨c, -, he⟩ := readIdBody_cases s
  exact he ▸ ha.inv_complete c

/-- Every body run on an accepted COMMAND write gives a state that meets the invariants. -/
theorem CommandBody.inv_of_accepted {body : State → State} (hbody : CommandBody body) {s : State} (ha : Accepted s) :
    Inv (body s) := by
  cases hbody with
  | readSector => exact ha.inv_readSectorBody
  | writeSector => exact ha.inv_writeSectorBody
  | seek => exact inv_of_seeking { ha.sized with } rfl ha.status ha.noRead (.inl rfl)
  | readStatus => exact Machine.inv_complete { ha.sized with } ha.noPend (by simp [ha.noRead])
  | formatTrack => exact ha.inv_formatTrackBody
  | readId => exact ha.inv_readIdBody
  | recalibrate => exact inv_of_seeking { ha.sized with } rfl ha.status ha.noRead (.inr rfl)
  | senseInterrupt =>
    exact inv_of_idle { ha.sized with } rfl (isCode_toByte .ok) ha.noPend (by simp [senseInterruptBody, ha.noRead])
  | invalid => exact ha.inv_complete .invalidCmd

/-! ## DATA accesses -/

theorem Inv.inv_deliverByte {s : State} (hs : Inv s) (hrd : s.rdActive = true) (v : Byte) : Inv (deliverByte v s) := by
  obtain ⟨hphase, hstatus, hidx⟩ := hs.reading hrd
  have hlim := hs.limitRange
  refine inv_of_idle { hs.wellSized with idxLe := by show s.xferIdx + 1 ≤ 512; omega } hphase (hs.idleCode hphase)
    (hs.noPending (by simp [hphase])) fun hmore => ⟨hstatus, ?_⟩
  have hne : s.xferIdx + 1 ≠ s.xferLimit := by simpa [deliverByte] using hmore
  exact lt_of_le_of_ne hidx hne

theorem Inv.wellSized_feedByte {s : State} (hs : Inv s) (hphase : s.phase = .awaitingData) (v : Byte) :
    WellSized (feedByte v s) := by
  obtain ⟨-, hidx, -⟩ := hs.awaiting hphase
  exact { hs.wellSized with bufLength := by simp [hs.bufLength], idxLe := hidx }

theorem Inv.inv_feedByte {s : State} (hs : Inv s) (hphase : s.phase = .awaitingData) (hlt : s.xferIdx + 1 < 512) (v : Byte) :
    Inv (feedByte v s) := by
  obtain ⟨hstatus, -, hrd⟩ := hs.awaiting hphase
  exact inv_of_awaiting (hs.wellSized_feedByte hphase v) hphase hstatus hlt hrd (hs.noPending (by simp [hphase]))

/-- The commit completes in each of its outcomes (R227). -/
theorem inv_commit {s : State} (hw : WellSized s) (hrd : s.rdActive = false) (hpend : s.pend = none) : Inv (commit s) := by
  rcases commit_cases s with ⟨-, he⟩ | ⟨e, sl, -, -, -, he⟩ | ⟨e, sl, off, -, hsl, hloc, he⟩ <;> rw [he]
  · exact inv_complete hw hpend (by simp [hrd])
  · exact inv_complete hw hpend (by simp [hrd])
  · exact inv_complete (hw.of_slotsRewritten (slotsRewritten_writeSector hsl hloc hw.bufLength)) (by simp [hpend]) (by simp [hrd])

theorem Inv.inv_commit_feedByte {s : State} (hs : Inv s) (hphase : s.phase = .awaitingData) (v : Byte) :
    Inv (commit (feedByte v s)) := by
  obtain ⟨-, -, hrd⟩ := hs.awaiting hphase
  exact inv_commit (hs.wellSized_feedByte hphase v) hrd (hs.noPending (by simp [hphase]))

/-! ## The other agents -/

theorem Inv.inv_mount {s : State} (hs : Inv s) {d : Drive} {img : ByteSeq} (hform : img.wf = true)
    (hlen : img.len = 368640 ∨ img.len = 737280) : Inv (s.setSlot d (some ⟨img, false⟩)) := by
  refine hs.of_slotsRewritten (slotsRewritten_setSlot fun _ sl hsl => ?_)
  cases hsl
  exact (Slot.wf_iff _).2 ⟨hform, hlen⟩

theorem Inv.inv_fire {s : State} (hs : Inv s) (hphase : s.phase = .seekPending) (c : StatusCode) :
    Inv (complete c { s with seekDone := true, pend := none }) := by
  obtain ⟨-, hrd, -⟩ := hs.seeking hphase
  exact inv_complete { hs.wellSized with } rfl (by simp [hrd])

theorem Inv.inv_reset {s t : State} (hs : Inv s) (h : execReset s = .next t) : Inv t := by
  cases h
  exact inv_of_idle
    { hs.wellSized with
      bufLength := List.length_replicate, idxLe := Nat.zero_le _, limitRange := ⟨Nat.zero_lt_succ 511, le_rfl⟩,
      padLength := List.length_replicate }
    rfl (isCode_toByte .ok) rfl (by simp)

/-! ## Every operation and every step -/

theorem Effect.keeps_inv {s t : State} {i : Instr} (h : Effect s i t) (hs : Inv s)
    (hwf : i.format = .unit → i.wf s.cfg = true) : Inv t := by
  cases h with
  | plain h => exact hs.of_eraseOperands_eq h
  | pad k v => exact { hs with padLength := by simp [hs.padLength] }
  | command v hbody hidle => exact (hbody.inv_of_accepted (hs.accepted hidle v)).with_result _
  | delivered v hrd => exact (hs.inv_deliverByte hrd v).with_result _
  | fed v hphase hlt => exact (hs.inv_feedByte hphase hlt v).with_result _
  | committed v hphase hlast => exact (hs.inv_commit_feedByte hphase v).with_result _
  | slots h => exact hs.of_slotsRewritten h
  | mounted d img hlen => exact (hs.inv_mount (hwf rfl) hlen).with_result _
  | fired p hphase hpend => exact (hs.inv_fire hphase p.code).with_result _
  | reset h => exact hs.inv_reset h

theorem decodeCommand_format (p : Config.Params) (v : Byte) : (decodeCommand p v).format = .cmd := by
  unfold decodeCommand
  split_ifs <;> rfl

theorem decodeRegister_format (r : RegName) (a : Access) : (decodeRegister r a).format = .reg := by
  cases r <;> cases a <;> rfl

theorem decodeAccess_format (p : Config.Params) (off : Nat) (a : Access) : (decodeAccess p off a).format = .reg := by
  unfold decodeAccess
  split
  · exact decodeRegister_format _ _
  · rfl
  · rfl

/-- A unit operation the decoder accepts is well formed (log 4). -/
theorem wf_of_decode_unit {p : Config.Params} {r : Request} {i : Instr} (h : decode p r = .ok i) (hi : i.format = .unit) :
    i.wf p = true := by
  cases r with
  | cmd v =>
    cases h
    simp [decodeCommand_format] at hi
  | reg off a =>
    simp only [decode] at h
    split at h <;> cases h
    simp [decodeAccess_format] at hi
  | mem addr a =>
    simp only [decode] at h
    split at h <;> cases h
    simp [decodeAccess_format] at hi
  | unit op =>
    simp only [decode] at h
    split_ifs at h with _ hwf
    cases h
    exact hwf

/-- Everything a step with a next state can do (log 3, R202). -/
theorem step_next_cases {s t : State} (h : step s = .next t) :
    t = s
      ∨ (∃ r rest i, s.inbox = r :: rest ∧ decode s.cfg r = .ok i ∧ exec i { s with inbox := rest } = .next t)
      ∨ ∃ rest, t = { s with inbox := rest, result := .none } := by
  cases hin : s.inbox with
  | nil =>
    rw [step_of_inbox_nil hin] at h
    cases h
    exact .inl rfl
  | cons r rest =>
    cases hdec : decode s.cfg r with
    | ok i => exact .inr (.inl ⟨r, rest, i, rfl, hdec, step_of_decode_ok hin hdec ▸ h⟩)
    | error e =>
      by_cases he : e = .outsideWindow
      · subst he
        simp only [step, hin, hdec] at h
        cases h
        exact .inr (.inr ⟨rest, rfl⟩)
      · rw [step_of_decode_error hin hdec he] at h
        cases h

/-- Settles O7: a step rests, drops an access, or runs an operation, each kind of change of which keeps the invariants. -/
theorem stepKeepsInvariants : Obligations.StepKeepsInvariants := by
  intro s t hs h
  rcases step_next_cases h with rfl | ⟨r, rest, i, -, hdec, hexec⟩ | ⟨rest, rfl⟩
  · exact hs
  · exact (exec_effect hexec).keeps_inv (hs.with_inbox rest) (wf_of_decode_unit hdec)
  · exact (hs.with_inbox rest).with_result .none

/-! ## The reset values -/

/-- Settles O9: the reset state field by field, and a controller reset writes no slot. -/
theorem resetValuesCollected : Obligations.ResetValuesCollected := by
  have hregs : ∀ r : RegName, State.reset.reg r = 0x00#8 := fun r => by cases r <;> rfl
  have hpad : ∀ k, k < 6 → State.reset.pad[k]? = some 0x00#8 := fun k hk => List.getElem?_replicate_of_lt hk
  have hslots : ∀ d : Drive, State.reset.slot d = none := fun d => by cases d <;> rfl
  have hkeep : ∀ s t : State, exec .reset s = .next t → t.slotA = s.slotA ∧ t.slotB = s.slotB := fun s t h => by
    cases h
    exact ⟨rfl, rfl⟩
  exact ⟨hregs, rfl, hpad, rfl, reset_buf_length, reset_buf_getElem?, rfl, rfl, rfl, rfl, rfl, rfl, rfl, rfl, rfl, rfl, hslots, hkeep⟩

end Sys2Proof.Machine
end

section
/-! Where the buffer and the pass-through bytes end: the rule of each access that would move a byte there is not (R60, R31). -/

namespace Sys2Proof.Machine

theorem execRdData_fault_of_missing {s : State} (hrd : s.rdActive = true) (hbuf : s.buf[s.xferIdx]? = none) :
    execRdData s = .fault .bufferIndex := by
  simp only [execRdData, hrd, hbuf, if_true]

/-- The write data phase is bounded by its length, not by the buffer's, which `Inv` makes the same. -/
theorem execWrData_fault_of_full {s : State} (hphase : s.phase = .awaitingData) (hfull : 512 ≤ s.xferIdx) (v : Byte) :
    execWrData v s = .fault .bufferIndex :=
  (if_pos hphase).trans (if_neg (Nat.not_lt.mpr hfull))

theorem execRdPad_fault_of_length_le {s : State} {k : Nat} (hk : s.pad.length ≤ k) : execRdPad k s = .fault .padIndex := by
  have hnone : s.pad[k]? = none := List.getElem?_eq_none hk
  simp only [execRdPad, hnone]

theorem execWrPad_fault_of_length_le {s : State} {k : Nat} (hk : s.pad.length ≤ k) (v : Byte) :
    execWrPad k v s = .fault .padIndex :=
  if_neg (Nat.not_lt.mpr hk)

/-- Settles O32: each of the four accesses checks its index before it moves the byte. -/
theorem missingBufferByteFaults : Obligations.MissingBufferByteFaults :=
  fun _ v =>
    ⟨execRdData_fault_of_missing, fun hphase hfull => execWrData_fault_of_full hphase hfull v,
      fun _ hk => ⟨execRdPad_fault_of_length_le hk, execWrPad_fault_of_length_le hk v⟩⟩

end Sys2Proof.Machine
end

section
/-! The encoding: what each command byte and each window offset stands for, and that decoder and encoder undo each other
(R90, R91, R94, R95). -/

namespace Sys2Proof
open Sys2Proof.Machine

/-! ## Command bytes -/

/-- The table of R94: each opcode with its command. -/
def opcodeTable (o : Config.Opcodes) : List (Byte × Instr) :=
  [(o.readSector, .readSector), (o.writeSector, .writeSector), (o.seekTrack, .seekTrack), (o.readStatus, .readStatus),
    (o.formatTrack, .formatTrack), (o.readId, .readId), (o.recalibrate, .recalibrate), (o.senseInterrupt, .senseInterrupt)]

theorem map_fst_opcodeTable (o : Config.Opcodes) : (opcodeTable o).map Prod.fst = o.toList := rfl

theorem mem_toList_of_mem_opcodeTable {o : Config.Opcodes} {v : Byte} {i : Instr} (h : (v, i) ∈ opcodeTable o) :
    v ∈ o.toList :=
  map_fst_opcodeTable o ▸ List.mem_map_of_mem h

/-- A command byte selects the command of its row, or has no row and is INVALID (R94, R95). -/
theorem decodeCommand_cases (p : Config.Params) (v : Byte) :
    (v, decodeCommand p v) ∈ opcodeTable p.opc ∨ (v ∉ p.opc.toList ∧ decodeCommand p v = .invalid v) := by
  unfold decodeCommand
  split_ifs <;> simp [opcodeTable, Config.Opcodes.toList, *]

/-- No two rows have one opcode (R7), so a byte selects the command of any row it has. -/
theorem decodeCommand_of_mem {p : Config.Params} (hp : p.valid = true) {v : Byte} {i : Instr}
    (h : (v, i) ∈ opcodeTable p.opc) : decodeCommand p v = i := by
  obtain ⟨hnd, -⟩ := (params_valid_iff p).1 hp
  rcases decodeCommand_cases p v with hrow | ⟨hv, -⟩
  · rw [← map_fst_opcodeTable] at hnd
    exact congrArg Prod.snd (List.inj_on_of_nodup_map hnd hrow h rfl)
  · exact absurd (mem_toList_of_mem_opcodeTable h) hv

theorem decodeCommand_eq_invalid_iff (p : Config.Params) (v : Byte) : decodeCommand p v = .invalid v ↔ v ∉ p.opc.toList := by
  rcases decodeCommand_cases p v with hrow | ⟨hv, hinvalid⟩
  · have hne : decodeCommand p v ≠ .invalid v := fun h => by simp [h, opcodeTable] at hrow
    exact iff_of_false hne (not_not_intro (mem_toList_of_mem_opcodeTable hrow))
  · exact iff_of_true hinvalid hv

theorem encode_and_wf_of_mem_opcodeTable {p : Config.Params} {v : Byte} {i : Instr} (h : (v, i) ∈ opcodeTable p.opc) :
    encode p i = .cmd v ∧ i.wf p = true := by
  simp only [opcodeTable, List.mem_cons, Prod.mk.injEq, List.not_mem_nil, or_false] at h
  rcases h with ⟨rfl, rfl⟩ | ⟨rfl, rfl⟩ | ⟨rfl, rfl⟩ | ⟨rfl, rfl⟩ | ⟨rfl, rfl⟩ | ⟨rfl, rfl⟩ | ⟨rfl, rfl⟩ | ⟨rfl, rfl⟩ <;>
    exact ⟨rfl, rfl⟩

theorem wf_decodeCommand (p : Config.Params) (v : Byte) : (decodeCommand p v).wf p = true := by
  rcases decodeCommand_cases p v with hrow | ⟨hv, hinvalid⟩
  · exact (encode_and_wf_of_mem_opcodeTable hrow).2
  · rw [hinvalid]
    exact decide_eq_true hv

theorem encode_decodeCommand (p : Config.Params) (v : Byte) : encode p (decodeCommand p v) = .cmd v := by
  rcases decodeCommand_cases p v with hrow | ⟨-, hinvalid⟩
  · exact (encode_and_wf_of_mem_opcodeTable hrow).1
  · rw [hinvalid]
    rfl

/-- The operations of format CMD are the eight rows of the table and INVALID (R90). -/
theorem command_cases (o : Config.Opcodes) {i : Instr} (h : i.format = .cmd) :
    (∃ v, i = .invalid v) ∨ ∃ v, (v, i) ∈ opcodeTable o := by
  cases i <;> cases h
  case invalid v => exact .inl ⟨v, rfl⟩
  all_goals exact .inr (by simp [opcodeTable])

theorem decode_encode_of_command {p : Config.Params} (hp : p.valid = true) {i : Instr} (hwf : i.wf p = true)
    (h : i.format = .cmd) : decode p (encode p i) = .ok i := by
  rcases command_cases p.opc h with ⟨v, rfl⟩ | ⟨v, hv⟩
  · exact congrArg Except.ok ((decodeCommand_eq_invalid_iff p v).2 (of_decide_eq_true hwf))
  · rw [(encode_and_wf_of_mem_opcodeTable hv).1]
    exact congrArg Except.ok (decodeCommand_of_mem hp hv)

/-- Settles O3: a byte has at most one row in the opcode table, and the defaults number the rows 1 to 8. -/
theorem commandByteDecoding : Obligations.CommandByteDecoding := by
  refine ⟨fun p hp => ?_, fun v => ?_⟩
  · have hrow {v : Byte} {i : Instr} (h : (v, i) ∈ opcodeTable p.opc) := decodeCommand_of_mem hp h
    refine ⟨hrow ?_, hrow ?_, hrow ?_, hrow ?_, hrow ?_, hrow ?_, hrow ?_, hrow ?_, decodeCommand_eq_invalid_iff p⟩ <;>
      simp [opcodeTable]
  · simp only [Config.Params.default, Config.Opcodes.toList, List.mem_cons, List.not_mem_nil, or_false, BitVec.toNat_eq,
      BitVec.toNat_ofNat]
    omega

/-! ## Window offsets -/

/-- `REG_OFFSET` of a register (R7, R91). -/
def registerOffset (p : Config.Params) : RegName → Nat
  | .command => p.regOffset.command
  | .status => p.regOffset.status
  | .data => p.regOffset.data
  | .driveSelect => p.regOffset.driveSelect
  | .track => p.regOffset.track
  | .sector => p.regOffset.sector
  | .dmaAddrLow => p.regOffset.dmaAddrLow
  | .dmaAddrHigh => p.regOffset.dmaAddrHigh
  | .dmaCount => p.regOffset.dmaCount
  | .control => p.regOffset.control

/-- The ten registers in the order of R91. -/
def registers : List RegName :=
  [.command, .status, .data, .driveSelect, .track, .sector, .dmaAddrLow, .dmaAddrHigh, .dmaCount, .control]

theorem mem_registers (r : RegName) : r ∈ registers := by
  cases r <;> decide

theorem map_registerOffset (p : Config.Params) : registers.map (registerOffset p) = p.regOffset.toList := rfl

theorem mem_registerOffsets_iff (p : Config.Params) (off : Nat) : off ∈ p.regOffset.toList ↔ ∃ r, registerOffset p r = off := by
  simp [← map_registerOffset, mem_registers]

theorem registerOffset_injective {p : Config.Params} (hp : p.valid = true) : Function.Injective (registerOffset p) := by
  obtain ⟨-, -, -, -, -, hnd, -, -⟩ := (params_valid_iff p).1 hp
  intro r r' h
  exact List.inj_on_of_nodup_map (map_registerOffset p ▸ hnd) (mem_registers r) (mem_registers r') h

theorem decodeOffset_of_register {p : Config.Params} {off : Nat} (h : off ∈ p.regOffset.toList) :
    ∃ r, decodeOffset p off = .inl r ∧ registerOffset p r = off := by
  simp only [Config.RegOffsets.toList, List.mem_cons, List.not_mem_nil, or_false] at h
  unfold decodeOffset
  split_ifs with h0 h1 h2 h3 h4 h5 h6 h7 h8 h9
  case neg => simp [h0, h1, h2, h3, h4, h5, h6, h7, h8, h9] at h
  all_goals exact ⟨_, rfl, Eq.symm ‹_›⟩

/-- The window offset of a register or a pass-through byte. -/
def targetOffset (p : Config.Params) : RegName ⊕ Nat → Nat
  | .inl r => registerOffset p r
  | .inr k => (padOffsets p).getD k p.window

/-- A register, or a pass-through byte the window has (R31). -/
def TargetExists (p : Config.Params) (t : RegName ⊕ Nat) : Prop := ∀ k, t = .inr k → k < p.padBytes

theorem decodeOffset_targetOffset {p : Config.Params} (hp : p.valid = true) {t : RegName ⊕ Nat} (ht : TargetExists p t) :
    decodeOffset p (targetOffset p t) = t ∧ targetOffset p t < p.window := by
  cases t with
  | inl r =>
    obtain ⟨-, -, -, -, -, -, -, hlt⟩ := (params_valid_iff p).1 hp
    have hmem : registerOffset p r ∈ p.regOffset.toList := (mem_registerOffsets_iff p _).2 ⟨r, rfl⟩
    obtain ⟨r', hdec, hoff⟩ := decodeOffset_of_register hmem
    exact ⟨registerOffset_injective hp hoff ▸ hdec, hlt _ hmem⟩
  | inr k => exact decodeOffset_padOffset hp (ht k rfl)

theorem targetOffset_decodeOffset {p : Config.Params} (hp : p.valid = true) {off : Nat} (hoff : off < p.window) :
    targetOffset p (decodeOffset p off) = off ∧ TargetExists p (decodeOffset p off) := by
  by_cases hreg : off ∈ p.regOffset.toList
  · obtain ⟨r, hdec, hr⟩ := decodeOffset_of_register hreg
    rw [hdec]
    exact ⟨hr, by rintro _ ⟨⟩⟩
  · have hmem : off ∈ padOffsets p := (mem_padOffsets p off).2 ⟨hoff, hreg⟩
    rw [decodeOffset_of_not_register p off hreg]
    refine ⟨?_, ?_⟩
    · simp only [targetOffset, List.getD_eq_getElem _ _ (List.idxOf_lt_length_iff.2 hmem), List.getElem_idxOf]
    · rintro _ ⟨⟩
      exact idxOf_padOffsets_lt hp hoff hreg

/-- With the registers below 10 the pass-through byte at an offset is `pad[off - 10]` (R9). -/
theorem decodeOffset_of_low {p : Config.Params} (hp : p.valid = true) (hlow : ∀ o ∈ p.regOffset.toList, o < 10) {off : Nat}
    (h10 : 10 ≤ off) (hoff : off < p.window) : decodeOffset p off = .inr (off - 10) := by
  have hlt : off - 10 < p.padBytes := Nat.sub_lt_sub_right h10 hoff
  have htarget : targetOffset p (.inr (off - 10)) = off := by
    have hlen : off - 10 < (List.range' 10 (p.window - 10)).length := by
      rw [List.length_range']
      exact hlt
    rw [targetOffset, padOffsets_of_low hp hlow, List.getD_eq_getElem _ _ hlen, List.getElem_range']
    omega
  have hdec := (decodeOffset_targetOffset hp (t := .inr (off - 10)) (by rintro _ ⟨⟩; exact hlt)).1
  rwa [htarget] at hdec

/-! ## Window accesses -/

/-- The operation of format REG on a register or a pass-through byte. -/
def accessOp : RegName ⊕ Nat → Access → Instr
  | .inl r, a => decodeRegister r a
  | .inr k, .rd => .rdPad k
  | .inr k, .wr v => .wrPad k v

theorem decodeAccess_eq_accessOp (p : Config.Params) (off : Nat) (a : Access) :
    decodeAccess p off a = accessOp (decodeOffset p off) a := by
  unfold decodeAccess
  split <;> rename_i h <;> rw [h] <;> rfl

/-- The operations of format REG are the accesses (R90). -/
theorem exists_accessOp_of_reg {i : Instr} (h : i.format = .reg) : ∃ t a, i = accessOp t a := by
  cases i <;> cases h
  case rdPad k => exact ⟨.inr k, .rd, rfl⟩
  case wrPad k v => exact ⟨.inr k, .wr v, rfl⟩
  case rdCommand => exact ⟨.inl .command, .rd, rfl⟩
  case wrCommand v => exact ⟨.inl .command, .wr v, rfl⟩
  case rdStatus => exact ⟨.inl .status, .rd, rfl⟩
  case wrStatus v => exact ⟨.inl .status, .wr v, rfl⟩
  case rdData => exact ⟨.inl .data, .rd, rfl⟩
  case wrData v => exact ⟨.inl .data, .wr v, rfl⟩
  case rdDriveSelect => exact ⟨.inl .driveSelect, .rd, rfl⟩
  case wrDriveSelect v => exact ⟨.inl .driveSelect, .wr v, rfl⟩
  case rdTrack => exact ⟨.inl .track, .rd, rfl⟩
  case wrTrack v => exact ⟨.inl .track, .wr v, rfl⟩
  case rdSector => exact ⟨.inl .sector, .rd, rfl⟩
  case wrSector v => exact ⟨.inl .sector, .wr v, rfl⟩
  case rdDmaAddrLow => exact ⟨.inl .dmaAddrLow, .rd, rfl⟩
  case wrDmaAddrLow v => exact ⟨.inl .dmaAddrLow, .wr v, rfl⟩
  case rdDmaAddrHigh => exact ⟨.inl .dmaAddrHigh, .rd, rfl⟩
  case wrDmaAddrHigh v => exact ⟨.inl .dmaAddrHigh, .wr v, rfl⟩
  case rdDmaCount => exact ⟨.inl .dmaCount, .rd, rfl⟩
  case wrDmaCount v => exact ⟨.inl .dmaCount, .wr v, rfl⟩
  case rdControl => exact ⟨.inl .control, .rd, rfl⟩
  case wrControl v => exact ⟨.inl .control, .wr v, rfl⟩

theorem encode_accessOp (p : Config.Params) (t : RegName ⊕ Nat) (a : Access) :
    encode p (accessOp t a) = .reg (targetOffset p t) a := by
  cases t with
  | inl r => cases r <;> cases a <;> rfl
  | inr k => cases a <;> rfl

theorem wf_accessOp_iff (p : Config.Params) (t : RegName ⊕ Nat) (a : Access) :
    (accessOp t a).wf p = true ↔ TargetExists p t := by
  cases t with
  | inl r => exact iff_of_true (by cases r <;> cases a <;> rfl) (by rintro _ ⟨⟩)
  | inr k => cases a <;> simp [accessOp, Instr.wf, TargetExists]

theorem decode_encode_of_access {p : Config.Params} (hp : p.valid = true) {i : Instr} (hwf : i.wf p = true)
    (h : i.format = .reg) : decode p (encode p i) = .ok i := by
  obtain ⟨t, a, rfl⟩ := exists_accessOp_of_reg h
  obtain ⟨hdec, hlt⟩ := decodeOffset_targetOffset hp ((wf_accessOp_iff p t a).1 hwf)
  simp only [encode_accessOp, decode, if_pos hlt, decodeAccess_eq_accessOp, hdec]

/-! ## Unit operations -/

theorem encode_of_unit (p : Config.Params) {i : Instr} (h : i.format = .unit) : encode p i = .unit i := by
  cases i <;> cases h <;> rfl

theorem decode_encode_of_unit {p : Config.Params} {i : Instr} (hwf : i.wf p = true) (h : i.format = .unit) :
    decode p (encode p i) = .ok i := by
  simp only [encode_of_unit p h, decode, h, hwf, if_true]

/-! ## Decoder and encoder undo each other -/

/-- Settles O1: format by format, the request an operation is encoded to selects it alone. -/
theorem decodeOfEncodeIsIdentity : Obligations.DecodeOfEncodeIsIdentity := by
  intro p i hp hwf
  cases h : i.format with
  | cmd => exact decode_encode_of_command hp hwf h
  | reg => exact decode_encode_of_access hp hwf h
  | unit => exact decode_encode_of_unit hwf h

/-- Settles O2: a command byte keeps its row, and an offset is recovered from the register or byte it names. -/
theorem encodeOfDecodeIsIdentity : Obligations.EncodeOfDecodeIsIdentity := by
  intro p hp
  refine ⟨fun v => ⟨wf_decodeCommand p v, encode_decodeCommand p v⟩, fun off a hoff => ?_, fun hlow off h10 hoff => ?_⟩
  · obtain ⟨htarget, hexists⟩ := targetOffset_decodeOffset hp hoff
    rw [decodeAccess_eq_accessOp, encode_accessOp, htarget]
    exact ⟨(wf_accessOp_iff p _ a).2 hexists, rfl⟩
  · simp only [decodeAccess_eq_accessOp, decodeOffset_of_low hp hlow h10 hoff]
    exact ⟨rfl, fun _ => rfl⟩

/-! ## Words of the spec's tables -/

theorem default_valid : Config.Params.default.valid = true := by decide

/-- A row of eight bits that holds an opcode of the table decodes to its command (R94, log 5). -/
theorem decodeTableWord_of_mem {w : Nat} {i : Instr} (hw : w < 256)
    (h : (BitVec.ofNat 8 w, i) ∈ opcodeTable Config.Params.default.opc) : decodeTableWord 8 w = some i := by
  have hreq : wordRequest 8 w = some (.cmd (BitVec.ofNat 8 w)) := if_pos ⟨Nat.le_refl 8, hw⟩
  simp only [decodeTableWord, hreq, decode, decodeCommand_of_mem default_valid h]

/-- Settles O6: four rows of the opcode table, the byte 0x00 beside it, and three accesses by the round trip. -/
theorem specWordsDecode : Obligations.SpecWordsDecode := by
  have hround (i : Instr) (hwf : i.wf Config.Params.default = true) := decodeOfEncodeIsIdentity _ i default_valid hwf
  refine ⟨decodeTableWord_of_mem (by decide) ?_, decodeTableWord_of_mem (by decide) ?_, decodeTableWord_of_mem (by decide) ?_,
    decodeTableWord_of_mem (by decide) ?_, rfl, hround (.wrData 0x77#8) rfl, hround .rdTrack rfl, hround (.rdPad 5) rfl⟩ <;>
    decide

end Sys2Proof
end

section
/-! The CRC unit (R120 to R128): its byte step is linear and loses nothing, and the rules of the spec's section 3 follow. -/

namespace Sys2Proof.Machine

/-! ## The register step -/

/-- R121 bit by bit: each bit moves down by one place, and the polynomial is added where the bit that leaves is set. -/
theorem crcBit_getLsbD (c : Word16) (i : Nat) :
    (crcBit c).getLsbD i = (c.getLsbD (i + 1) ^^ (c.getLsbD 0 && Config.crcPoly.getLsbD i)) := by
  unfold crcBit
  cases c.getLsbD 0 <;> simp [Nat.add_comm]

theorem crcBit_xor (a b : Word16) : crcBit (a ^^^ b) = crcBit a ^^^ crcBit b := by
  refine BitVec.eq_of_getLsbD_eq fun i _ => ?_
  simp only [BitVec.getLsbD_xor, crcBit_getLsbD, Bool.and_xor_distrib_right, Bool.xor_assoc, Bool.xor_left_comm]

/-- The top bit of the polynomial is set, so bit 15 of the result tells the bit that left the register. -/
theorem crcBit_injective : Function.Injective crcBit := by
  intro a b h
  have hbit (i : Nat) := congrArg (BitVec.getLsbD · i) h
  simp only [crcBit_getLsbD] at hbit
  have hlow : a.getLsbD 0 = b.getLsbD 0 := by simpa [Config.crcPoly] using hbit 15
  refine BitVec.eq_of_getLsbD_eq fun i _ => ?_
  cases i with
  | zero => exact hlow
  | succ i => simpa only [hlow, Bool.xor_left_inj] using hbit i

/-- As long as no set bit leaves the register, the polynomial is never added. -/
theorem crcBit_iterate_of_low_zero (c : Word16) (n : Nat) (h : ∀ i < n, c.getLsbD i = false) : crcBit^[n] c = c >>> n := by
  induction n with
  | zero => rfl
  | succ n ih =>
    have hlow : ¬(c >>> n).getLsbD 0 = true := by simp [h n]
    rw [Function.iterate_succ_apply', ih fun i hi => h i (Nat.lt_succ_of_lt hi), crcBit, if_neg hlow, BitVec.shiftRight_add]

/-! ## Eight steps of the register -/

theorem crcBits8_xor (a b : Word16) : crcBits8 (a ^^^ b) = crcBits8 a ^^^ crcBits8 b := by
  simp only [crcBits8, crcBit_xor]

theorem crcBits8_injective : Function.Injective crcBits8 := crcBit_injective.iterate 8

theorem crcBits8_eq_zero_iff (c : Word16) : crcBits8 c = 0x0000#16 ↔ c = 0x0000#16 :=
  crcBits8_injective.eq_iff' rfl

/-- A high byte alone only moves down. -/
theorem crcBits8_high (y : Byte) : crcBits8 (y.setWidth 16 <<< 8) = y.setWidth 16 :=
  calc crcBit^[8] (y.setWidth 16 <<< 8)
    _ = y.setWidth 16 <<< 8 >>> 8 := crcBit_iterate_of_low_zero _ 8 fun i hi => by simp [hi]
    _ = y.setWidth 16 := by bv_omega

/-! ## The two bytes of a word -/

theorem append_eq_shiftLeft_xor (y x : Byte) : (y ++ x : Word16) = (y.setWidth 16 <<< 8) ^^^ x.setWidth 16 := by
  refine BitVec.eq_of_getLsbD_eq fun i (hi : i < 16) => ?_
  rw [BitVec.getLsbD_append, BitVec.getLsbD_xor]
  by_cases h : i < 8
  · simp [h, hi]
  · simp [h, hi, BitVec.getLsbD_of_ge x i (Nat.le_of_not_lt h)]

theorem high_append_low (c : Word16) : (c >>> 8).setWidth 8 ++ c.setWidth 8 = c := by
  refine BitVec.eq_of_getLsbD_eq fun i (hi : i < 16) => ?_
  rw [BitVec.getLsbD_append]
  by_cases h : i < 8
  · simp [h]
  · have hhigh : i - 8 < 8 := by omega
    simp [h, hhigh, Nat.add_sub_of_le (Nat.le_of_not_lt h)]

theorem eq_append_iff (c : Word16) (y x : Byte) : c = y ++ x ↔ x = c.setWidth 8 ∧ y = (c >>> 8).setWidth 8 := by
  constructor
  · rintro rfl
    rw [BitVec.setWidth_ushiftRight_eq_extractLsb]
    exact ⟨BitVec.setWidth_append_eq_right.symm, BitVec.extractLsb'_append_eq_left.symm⟩
  · rintro ⟨rfl, rfl⟩
    exact (high_append_low c).symm

/-! ## The byte step -/

/-- The high byte moves down, and the low byte selects an entry of the table (R121). -/
theorem crcBits8_eq_shiftRight_xor_table (c : Word16) : crcBits8 c = (c >>> 8) ^^^ crcTable (c.setWidth 8) :=
  calc crcBits8 c
    _ = crcBits8 (((c >>> 8).setWidth 8).setWidth 16 <<< 8) ^^^ crcTable (c.setWidth 8) := by
      rw [crcTable, ← crcBits8_xor, ← append_eq_shiftLeft_xor, high_append_low]
    _ = (c >>> 8) ^^^ crcTable (c.setWidth 8) := by
      rw [crcBits8_high, show ((c >>> 8).setWidth 8).setWidth 16 = c >>> 8 by bv_omega]

theorem crcStep_eq_crcBits8 (c : Word16) (b : Byte) : crcStep c b = crcBits8 (c ^^^ b.setWidth 16) := by
  have hhigh : (c ^^^ b.setWidth 16) >>> 8 = c >>> 8 := by
    rw [BitVec.ushiftRight_xor_distrib, show b.setWidth 16 >>> 8 = 0#16 by bv_omega, BitVec.xor_zero]
  rw [crcBits8_eq_shiftRight_xor_table, hhigh, crcStep]

/-- Settles O36: the bit-serial form is linear, so the high and the low byte of its operand count separately; the mask of the
table form keeps what the index reads. -/
theorem crcTableStepIsBitSerial : Obligations.CrcTableStepIsBitSerial := by
  intro c b
  have hmask : ((c ^^^ b.setWidth 16) &&& 0x00FF#16).setWidth 8 = (c ^^^ b.setWidth 16).setWidth 8 := by
    rw [BitVec.setWidth_and, show (0x00FF#16).setWidth 8 = BitVec.allOnes 8 from rfl, BitVec.and_allOnes]
  exact ⟨by rw [hmask, crcStep], crcStep_eq_crcBits8 c b⟩

theorem crcStep_left_injective (b : Byte) : Function.Injective (crcStep · b) := by
  intro c c' h
  simpa only [crcStep_eq_crcBits8, crcBits8_injective.eq_iff, BitVec.xor_left_inj] using h

theorem crcStep_right_injective (c : Word16) : Function.Injective (crcStep c) := by
  intro b b' h
  simp only [crcStep_eq_crcBits8, crcBits8_injective.eq_iff, BitVec.xor_right_inj] at h
  simpa using congrArg (BitVec.setWidth 8) h

/-- Two bytes take the register to zero exactly if they are its own, the low byte first. -/
theorem crcStep_crcStep_eq_zero_iff (c : Word16) (x y : Byte) : crcStep (crcStep c x) y = 0x0000#16 ↔ c = y ++ x :=
  calc crcStep (crcStep c x) y = 0x0000#16
    _ ↔ crcBits8 (c ^^^ x.setWidth 16) = y.setWidth 16 := by
      rw [crcStep_eq_crcBits8 _ y, crcBits8_eq_zero_iff, BitVec.xor_eq_zero_iff, crcStep_eq_crcBits8]
    _ ↔ c ^^^ x.setWidth 16 = y.setWidth 16 <<< 8 := crcBits8_injective.eq_iff' (crcBits8_high y)
    _ ↔ c = y ++ x := by
      rw [append_eq_shiftLeft_xor, ← BitVec.xor_left_inj (x.setWidth 16), BitVec.xor_assoc, BitVec.xor_self, BitVec.xor_zero]

/-! ## The CRC of a sequence -/

theorem foldl_crcStep_injective (data : List Byte) : Function.Injective (data.foldl crcStep) := by
  induction data with
  | nil => exact Function.injective_id
  | cons b data ih => exact ih.comp (crcStep_left_injective b)

/-- One byte changed changes the register, and the bytes after it do not undo that. -/
theorem crc16_append_cons_inj {p : Config.Params} {pre post : List Byte} {a b : Byte} :
    crc16 p (pre ++ a :: post) = crc16 p (pre ++ b :: post) ↔ a = b := by
  simp only [crc16, BitVec.xor_left_inj, List.foldl_append, List.foldl_cons, (foldl_crcStep_injective post).eq_iff,
    (crcStep_right_injective _).eq_iff]

theorem crc16_set_eq_iff {d : List Byte} {k : Nat} (hk : k < d.length) (p : Config.Params) (v : Byte) :
    crc16 p (d.set k v) = crc16 p d ↔ d[k]? = some v := by
  have hd : d.take k ++ d[k] :: d.drop (k + 1) = d := by simp
  have hset : d.set k v = d.take k ++ v :: d.drop (k + 1) := by rw [List.set_eq_take_append_cons_drop, if_pos hk]
  calc crc16 p (d.set k v) = crc16 p d
    _ ↔ crc16 p (d.take k ++ v :: d.drop (k + 1)) = crc16 p (d.take k ++ d[k] :: d.drop (k + 1)) := by rw [hset, hd]
    _ ↔ v = d[k] := crc16_append_cons_inj
    _ ↔ d[k]? = some v := by rw [List.getElem?_eq_getElem hk, Option.some_inj, eq_comm]

theorem crc16_append_pair_eq_zero_iff {p : Config.Params} (hp : p.crcXorOut = 0x0000#16) (d : List Byte) (x y : Byte) :
    crc16 p (d ++ [x, y]) = 0x0000#16 ↔ crc16 p d = y ++ x := by
  simp only [crc16, hp, BitVec.xor_zero, List.foldl_append, List.foldl_cons, List.foldl_nil, crcStep_crcStep_eq_zero_iff]

/-! ## The verdict on a sector -/

/-- R125: the last two bytes of a sector are compared as one word, the low byte first. -/
theorem crcVerify_append_pair {d : List Byte} (hd : d.length = 510) (p : Config.Params) (x y : Byte) :
    crcVerify p (d ++ [x, y]) = decide (crc16 p d = y ++ x) := by
  have htake : (d ++ [x, y]).take Config.crcCover = d := List.take_left' hd
  have hfield : crcField (d ++ [x, y]) = y ++ x := by simp [crcField, hd]
  rw [crcVerify, htake, hfield]

/-- Settles O38: the word compared is the CRC exactly if its two bytes are. -/
theorem crcVerifyAcceptsExactlyTheCrc : Obligations.CrcVerifyAcceptsExactlyTheCrc := by
  intro p d x y hd
  rw [crcVerify_append_pair hd, decide_eq_true_iff, eq_append_iff]

/-- Settles O39: two more bytes take the register to zero exactly if they spell the CRC. -/
theorem crcResidueIsZero : Obligations.CrcResidueIsZero := by
  intro p d hp
  refine ⟨?_, fun x y hd => ?_⟩
  · rw [crc16_append_pair_eq_zero_iff hp, high_append_low]
  · rw [crcVerify_append_pair hd, decide_eq_true_iff, crc16_append_pair_eq_zero_iff hp]

/-- Settles O40: both sectors are compared with the same word, and their CRCs differ. -/
theorem crcDetectsOneChangedByte : Obligations.CrcDetectsOneChangedByte := by
  intro p d x y v k hd hk hv hok
  have hset : (d.set k v).length = 510 := by rw [List.length_set, hd]
  rw [crcVerify_append_pair hd, decide_eq_true_iff] at hok
  rw [crcVerify_append_pair hset, decide_eq_false_iff_not, ← hok, crc16_set_eq_iff (hd ▸ hk)]
  exact hv

/-- Settles O37: the operand of CRC16.VERIFY has the length its type asks for, and the verdict is the comparison above. -/
theorem crcOperationsAnswer : Obligations.CrcOperationsAnswer := by
  intro s
  refine ⟨fun data => rfl, fun d lo hi hd => ?_⟩
  have hlen : (d ++ [lo, hi]).length = Config.sectorBytes := by simp [hd]
  rw [← crcVerify_append_pair hd]
  exact if_pos hlen

end Sys2Proof.Machine
end

section
/-! The unit operations refused by name: a payload of a length the operand type excludes, and FIRE with nothing pending. -/

namespace Sys2Proof.Machine

theorem execFire_refused {s : State} (h : s.phase ≠ .seekPending ∨ s.pend = none) : execFire s = .refused .fireNotPending := by
  unfold execFire
  split
  · next p hphase hpend => simp [hphase, hpend] at h
  · rfl

/-- Settles O41: each operation tests its precondition first. -/
theorem stepsOutsideTheirPreconditionsAreRefused : Obligations.StepsOutsideTheirPreconditionsAreRefused := by
  intro s ref d t n data
  exact ⟨fun hlen => ⟨if_neg hlen, if_neg hlen, if_neg hlen⟩, fun hlen => if_neg hlen, execFire_refused⟩

end Sys2Proof.Machine
end

section
/-! The sector-address translator (R141, R142): what each translation and its operation answers, and that the two undo each other. -/

namespace Sys2Proof.Machine

/-! ## The two translations -/

/-- The translator of R141 answers on valid addresses only. -/
theorem p2l_eq_ok_iff {t n l : Nat} : p2l t n = .ok l ↔ InRange t n ∧ t * 9 + (n - 1) = l := by
  rcases p2l_cases t n with ⟨hr, he, _⟩ | ⟨hr, he⟩ <;> simp [he, hr]

/-- A logical index of the image translates back (R142). -/
theorem l2p_of_le {l : Nat} (h : l ≤ 359) : l2p l = .ok (l / 9, l % 9 + 1) := if_neg (Nat.not_lt.mpr h)

/-- An index past the last sector fails (R142, R143). -/
theorem l2p_of_lt {l : Nat} (h : 359 < l) : l2p l = .error .outOfBounds := if_pos h

theorem l2p_eq_ok_iff {l t n : Nat} : l2p l = .ok (t, n) ↔ l ≤ 359 ∧ l / 9 = t ∧ l % 9 + 1 = n := by
  rcases Nat.lt_or_ge 359 l with h | h
  · simp [l2p_of_lt h, h]
  · simp [l2p_of_le h, h]

/-- Track and 0-based sector are quotient and remainder by the nine sectors of a track, so both translations describe the same
pairs of an address and an index. -/
theorem p2l_eq_ok_iff_l2p_eq_ok {t n l : Nat} : p2l t n = .ok l ↔ l2p l = .ok (t, n) := by
  rw [p2l_eq_ok_iff, l2p_eq_ok_iff, InRange]
  omega

theorem p2l_strictMono {t n t' n' l l' : Nat} (h : p2l t n = .ok l) (h' : p2l t' n' = .ok l')
    (hlt : t < t' ∨ (t = t' ∧ n < n')) : l < l' := by
  obtain ⟨⟨_, hn, hn9⟩, rfl⟩ := p2l_eq_ok_iff.mp h
  obtain ⟨⟨_, hn', _⟩, rfl⟩ := p2l_eq_ok_iff.mp h'
  omega

/-- The first sector of a track follows the last one of the track before. -/
theorem p2l_succ_track {t l : Nat} (ht : t ≤ 38) (h : p2l t 9 = .ok l) : p2l (t + 1) 1 = .ok (l + 1) := by
  obtain ⟨_, rfl⟩ := p2l_eq_ok_iff.mp h
  have hr : InRange (t + 1) 1 := ⟨by omega, by decide, by decide⟩
  exact p2l_eq_ok_iff.mpr ⟨hr, by omega⟩

/-- The indices in use are exactly the 360 of R142's range. -/
theorem exists_p2l_eq_ok_iff {l : Nat} : (∃ t n, p2l t n = .ok l) ↔ l < 360 := by
  simp only [p2l_eq_ok_iff_l2p_eq_ok]
  constructor
  · rintro ⟨t, n, h⟩
    obtain ⟨hl, _, _⟩ := l2p_eq_ok_iff.mp h
    exact Nat.lt_succ_of_le hl
  · intro h
    exact ⟨l / 9, l % 9 + 1, l2p_of_le (Nat.le_of_lt_succ h)⟩

/-- Settles O43: the two translations are one relation, read in either direction; the order and the range follow from its formula. -/
theorem translationsAreInverse : Obligations.TranslationsAreInverse :=
  ⟨fun _ _ _ => p2l_eq_ok_iff_l2p_eq_ok.mp, fun _ _ _ => p2l_eq_ok_iff_l2p_eq_ok.mpr, fun _ _ _ _ _ _ => p2l_strictMono,
    fun _ _ => p2l_succ_track, fun _ => exists_p2l_eq_ok_iff⟩

/-! ## The two operations -/

theorem execSatP2L_of_ok {t n l : Nat} (h : p2l t n = .ok l) (s : State) :
    execSatP2L t n s = .next { s with result := .index l } := by
  simp only [execSatP2L, h, answer_eq]

theorem execSatP2L_of_error {t n : Nat} {f : UnitFailure} (h : p2l t n = .error f) (s : State) :
    execSatP2L t n s = .next { s with result := .failed f } := by
  simp only [execSatP2L, h, answer_eq]

theorem execSatL2P_of_ok {l t n : Nat} (h : l2p l = .ok (t, n)) (s : State) :
    execSatL2P l s = .next { s with result := .physical t n } := by
  simp only [execSatL2P, h, answer_eq]

theorem execSatL2P_of_error {l : Nat} {f : UnitFailure} (h : l2p l = .error f) (s : State) :
    execSatL2P l s = .next { s with result := .failed f } := by
  simp only [execSatL2P, h, answer_eq]

/-- Settles O42: each operation answers what its translation gives, inside the range and outside. -/
theorem translatorAnswers : Obligations.TranslatorAnswers := by
  intro s
  refine ⟨fun t n ht hn hn9 => ?_, fun t n hout => ?_, fun l hl => ?_, fun l hl => ?_⟩
  · exact execSatP2L_of_ok (p2l_of_inRange ⟨ht, hn, hn9⟩) s
  · have hr : ¬InRange t n := by rw [InRange]; omega
    exact execSatP2L_of_error (p2l_of_not_inRange hr) s
  · exact execSatL2P_of_ok (l2p_of_le hl) s
  · exact execSatL2P_of_error (l2p_of_lt hl) s

end Sys2Proof.Machine
end

section
/-! The slot-level address (R163): an address resolves exactly if it is valid on the image, to the offset of the geometry. -/

namespace Sys2Proof.Machine

/-- Where the remap of R163 applies, an address is valid if it is in range 40 tracks lower. -/
theorem validOn_iff_of_remap {img : ByteSeq} {t n : Nat} (h : img.len = 737280 ∧ 40 ≤ t) :
    ValidOn img t n ↔ InRange (t - 40) n := by
  simp only [ValidOn, InRange, h.1, true_and]
  omega

theorem validOn_iff_of_not_remap {img : ByteSeq} {t n : Nat} (h : ¬(img.len = 737280 ∧ 40 ≤ t)) :
    ValidOn img t n ↔ InRange t n := by
  simp only [ValidOn, InRange]
  omega

theorem locateIn_of_remap {img : ByteSeq} {t : Nat} (h : img.len = 737280 ∧ 40 ≤ t) (p : Config.Params) (n : Nat) :
    locateIn p img t n = (p2l (t - 40) n).map (fun l => side1Offset p.side1 + sectorOffset l) :=
  if_pos (by simpa [twoSided] using h)

theorem locateIn_of_not_remap {img : ByteSeq} {t : Nat} (h : ¬(img.len = 737280 ∧ 40 ≤ t)) (p : Config.Params) (n : Nat) :
    locateIn p img t n = (p2l t n).map sectorOffset :=
  if_neg (by simpa [twoSided] using h)

/-- A valid address resolves to its geometric offset (R64, R65, R163). -/
theorem locateIn_of_validOn {img : ByteSeq} {t n : Nat} (h : ValidOn img t n) (p : Config.Params) :
    locateIn p img t n = .ok (offsetOn p img t n) := by
  by_cases hr : img.len = 737280 ∧ 40 ≤ t
  · rw [locateIn_of_remap hr, p2l_of_inRange ((validOn_iff_of_remap hr).1 h), offsetOn, if_pos hr]
    rfl
  · rw [locateIn_of_not_remap hr, p2l_of_inRange ((validOn_iff_of_not_remap hr).1 h), offsetOn, if_neg hr]
    rfl

/-- Any other address fails. -/
theorem locateIn_of_not_validOn {img : ByteSeq} {t n : Nat} (h : ¬ValidOn img t n) (p : Config.Params) :
    locateIn p img t n = .error .outOfBounds := by
  by_cases hr : img.len = 737280 ∧ 40 ≤ t
  · rw [locateIn_of_remap hr, p2l_of_not_inRange (mt (validOn_iff_of_remap hr).2 h)]
    rfl
  · rw [locateIn_of_not_remap hr, p2l_of_not_inRange (mt (validOn_iff_of_not_remap hr).2 h)]
    rfl

theorem locateIn_eq_ok_iff {p : Config.Params} {img : ByteSeq} {t n off : Nat} :
    locateIn p img t n = .ok off ↔ ValidOn img t n ∧ offsetOn p img t n = off := by
  by_cases h : ValidOn img t n
  · simp [locateIn_of_validOn h, h]
  · simp [locateIn_of_not_validOn h, h]

/-- R163's derived sentence: the sector lies inside the image. -/
theorem offsetOn_bound {img : ByteSeq} {t n : Nat} (hlen : img.len = 368640 ∨ img.len = 737280) (h : ValidOn img t n)
    (p : Config.Params) : offsetOn p img t n + 512 ≤ img.len := by
  have hside := side1Offset_le p.side1
  unfold offsetOn
  split
  · next hr =>
    obtain ⟨_, _, _⟩ := (validOn_iff_of_remap hr).1 h
    omega
  · next hr =>
    obtain ⟨_, _, _⟩ := (validOn_iff_of_not_remap hr).1 h
    omega

theorem locate_of_not_ready {s : State} {d : Option Drive} (h : s.slotOf d = none) (t n : Nat) :
    locate s d t n = .error .notReady := by
  simp only [locate, h]

theorem locate_of_mounted {s : State} {d : Option Drive} {sl : Slot} (h : s.slotOf d = some sl) (t n : Nat) :
    locate s d t n = locateIn s.cfg sl.img t n := by
  simp only [locate, h]

/-- Settles O44: readiness is tested first; then the address resolves exactly if it is valid, to the geometric offset, whose sector
the geometry keeps inside both image lengths. -/
theorem locateFollowsGeometry : Obligations.LocateFollowsGeometry := by
  intro s d t n
  refine ⟨fun h => locate_of_not_ready h t n, fun sl hsl => ?_⟩
  rw [locate_of_mounted hsl]
  refine ⟨fun h => locateIn_of_validOn h _, fun h => locateIn_of_not_validOn h _, fun off hlen hoff => ?_⟩
  obtain ⟨hvalid, rfl⟩ := locateIn_eq_ok_iff.1 hoff
  exact offsetOn_bound hlen hvalid s.cfg

end Sys2Proof.Machine
end

section
/-! The buffer level (R155 to R161): when a sector or a run of sectors lies in a buffer, what each operation answers then, and that
it fails otherwise. -/

namespace Sys2Proof.Machine

/-! ## The two checks -/

/-- R156, R157: a valid address whose sector lies inside the buffer. -/
def SectorFits (b : ByteSeq) (t n : Nat) : Prop := InRange t n ∧ (t * 9 + (n - 1)) * 512 + 512 ≤ b.len

/-- R158, R159: a run from a valid address on that stays inside the geometry and inside the buffer. -/
def RunFits (b : ByteSeq) (t n c : Nat) : Prop :=
  InRange t n ∧ t * 9 + (n - 1) + c ≤ 360 ∧ (t * 9 + (n - 1) + c) * 512 ≤ b.len

theorem not_sectorFits {b : ByteSeq} {t n : Nat} (h : ¬InRange t n ∨ b.len < (t * 9 + (n - 1)) * 512 + 512) :
    ¬SectorFits b t n := by
  rintro ⟨hr, hlen⟩
  rcases h with h | h
  · exact h hr
  · omega

theorem not_runFits {b : ByteSeq} {t n c : Nat}
    (h : ¬InRange t n ∨ 360 < t * 9 + (n - 1) + c ∨ b.len < (t * 9 + (n - 1) + c) * 512) : ¬RunFits b t n c := by
  rintro ⟨hr, hcount, hlen⟩
  rcases h with h | h | h
  · exact h hr
  · omega
  · omega

/-! ## The pure operations -/

theorem secRead_of_fits {b : ByteSeq} {t n : Nat} (h : SectorFits b t n) :
    secRead b t n = .ok (b.slice ((t * 9 + (n - 1)) * 512) 512) := by
  simp only [secRead, p2l_of_inRange h.1]
  exact if_neg (Nat.not_lt.mpr h.2)

theorem secRead_of_not_fits {b : ByteSeq} {t n : Nat} (h : ¬SectorFits b t n) : secRead b t n = .error .outOfBounds := by
  by_cases hr : InRange t n
  · simp only [secRead, p2l_of_inRange hr]
    exact if_pos (Nat.not_le.mp fun hlen => h ⟨hr, hlen⟩)
  · simp only [secRead, p2l_of_not_inRange hr]

theorem secWrite_of_fits {b : ByteSeq} {t n : Nat} (h : SectorFits b t n) (data : List Byte) :
    secWrite b t n data = .ok (b.write ((t * 9 + (n - 1)) * 512) data) := by
  simp only [secWrite, p2l_of_inRange h.1]
  exact if_neg (Nat.not_lt.mpr h.2)

theorem secWrite_of_not_fits {b : ByteSeq} {t n : Nat} (h : ¬SectorFits b t n) (data : List Byte) :
    secWrite b t n data = .error .outOfBounds := by
  by_cases hr : InRange t n
  · simp only [secWrite, p2l_of_inRange hr]
    exact if_pos (Nat.not_le.mp fun hlen => h ⟨hr, hlen⟩)
  · simp only [secWrite, p2l_of_not_inRange hr]

theorem secRun_of_fits {b : ByteSeq} {t n c : Nat} (h : RunFits b t n c) : secRun b t n c = .ok (t * 9 + (n - 1)) := by
  obtain ⟨hr, hcount, hlen⟩ := h
  simp only [secRun, p2l_of_inRange hr]
  rw [if_neg (Nat.not_lt.mpr hcount), if_neg (Nat.not_lt.mpr hlen)]

theorem secRun_of_not_fits {b : ByteSeq} {t n c : Nat} (h : ¬RunFits b t n c) : secRun b t n c = .error .outOfBounds := by
  by_cases hr : InRange t n
  · simp only [secRun, p2l_of_inRange hr]
    by_cases hcount : t * 9 + (n - 1) + c ≤ 360
    · rw [if_neg (Nat.not_lt.mpr hcount), if_pos (Nat.not_le.mp fun hlen => h ⟨hr, hcount, hlen⟩)]
    · rw [if_pos (Nat.not_le.mp hcount)]
  · simp only [secRun, p2l_of_not_inRange hr]

theorem secFormatTrack_of_fits {b : ByteSeq} {t : Nat} (ht : t ≤ 39) (hlen : t * 4608 + 4608 ≤ b.len) :
    secFormatTrack b t = .ok (b.clear (t * 4608) 4608) := by
  have hoff : t * 9 * 512 = t * 4608 := Nat.mul_assoc t 9 512
  rw [secFormatTrack, if_neg (by omega), if_neg (by omega), hoff]

theorem secFormatTrack_of_not_fits {b : ByteSeq} {t : Nat} (h : 39 < t ∨ b.len < t * 4608 + 4608) :
    secFormatTrack b t = .error .outOfBounds := by
  unfold secFormatTrack
  split_ifs
  · rfl
  · rfl
  · omega

theorem secFormatDisk_of_fits {b : ByteSeq} (h : 184320 ≤ b.len) : secFormatDisk b = .ok (b.clear 0 184320) :=
  if_neg (Nat.not_lt.mpr h)

theorem secFormatDisk_of_not_fits {b : ByteSeq} (h : b.len < 184320) : secFormatDisk b = .error .outOfBounds := if_pos h

/-- R157: SEC.READ after SEC.WRITE answers the written bytes. -/
theorem secRead_write_same {b : ByteSeq} {t n : Nat} {data : List Byte} (hfit : SectorFits b t n) (hdata : data.length = 512) :
    secRead (b.write ((t * 9 + (n - 1)) * 512) data) t n = .ok data := by
  have hfit' : SectorFits (b.write ((t * 9 + (n - 1)) * 512) data) t n := hfit
  rw [secRead_of_fits hfit']
  congr 1
  simpa only [hdata] using ByteSeq.slice_write b ((t * 9 + (n - 1)) * 512) data

/-! ## The answers -/

@[simp] theorem answerRead_ok (s : State) (bytes : List Byte) :
    answerRead s (.ok bytes) = .next { s with result := .bytes bytes } := rfl
@[simp] theorem answerRead_error (s : State) (f : UnitFailure) :
    answerRead s (.error f) = .next { s with result := .failed f } := rfl
@[simp] theorem answerWrite_error (s : State) (b : BufRef) (f : UnitFailure) :
    answerWrite s b (.error f) = .next { s with result := .failed f } := rfl
@[simp] theorem answerSlotWrite_ok (s s' : State) : answerSlotWrite s (.ok s') = .next { s' with result := .done } := rfl
@[simp] theorem answerSlotWrite_error (s : State) (f : UnitFailure) :
    answerSlotWrite s (.error f) = .next { s with result := .failed f } := rfl

/-- R155, R169: an updated buffer goes back to where the operand named it. -/
theorem answerWrite_ok {s : State} {ref : BufRef} {b : ByteSeq} (hb : bufferOf s ref = .ok b) (b' : ByteSeq) :
    ∃ u, answerWrite s ref (.ok b') = .next u ∧ WritesBack s u b' ref := by
  match ref with
  | .handed x => exact ⟨_, rfl, rfl⟩
  | .slot none => cases hb
  | .slot (some e) => exact ⟨_, rfl, rfl⟩

theorem bufferOf_slot_of_not_ready {s : State} {d : Option Drive} (h : s.slotOf d = none) :
    bufferOf s (.slot d) = .error .notReady := by
  simp only [bufferOf, h]

theorem answerRead_of_no_buffer {s : State} {ref : BufRef} {e : UnitFailure} (hb : bufferOf s ref = .error e)
    (f : ByteSeq → Except UnitFailure (List Byte)) :
    answerRead s ((bufferOf s ref).bind f) = .next { s with result := .failed e } := by
  rw [hb]
  rfl

theorem answerWrite_of_no_buffer {s : State} {ref : BufRef} {e : UnitFailure} (hb : bufferOf s ref = .error e)
    (f : ByteSeq → Except UnitFailure ByteSeq) :
    answerWrite s ref ((bufferOf s ref).bind f) = .next { s with result := .failed e } := by
  rw [hb]
  rfl

/-! ## The operations on the buffer an operand names -/

section
variable {s : State} {ref : BufRef} {b : ByteSeq} (hb : bufferOf s ref = .ok b)
include hb

theorem exec_secRead (t n : Nat) : exec (.secRead ref t n) s = answerRead s (secRead b t n) := by
  simp only [exec, execSecRead, hb, Except.bind]

theorem exec_secReadM (t n c : Nat) : exec (.secReadM ref t n c) s = answerRead s (secReadM b t n c) := by
  simp only [exec, execSecReadM, hb, Except.bind]

theorem exec_secWrite {data : List Byte} (hdata : data.length = 512) (t n : Nat) :
    exec (.secWrite ref t n data) s = answerWrite s ref (secWrite b t n data) := by
  simp only [exec, execSecWrite, if_pos hdata, hb, Except.bind]

theorem exec_secWriteM {data : List Byte} (hdata : data.length % 512 = 0) (t n : Nat) :
    exec (.secWriteM ref t n data) s = answerWrite s ref (secWriteM b t n data) := by
  simp only [exec, execSecWriteM, if_pos hdata, hb, Except.bind]

theorem exec_secFmtTrk (t : Nat) : exec (.secFmtTrk ref t) s = answerWrite s ref (secFormatTrack b t) := by
  simp only [exec, execSecFmtTrk, hb, Except.bind]

theorem exec_secFmtDsk : exec (.secFmtDsk ref) s = answerWrite s ref (secFormatDisk b) := by
  simp only [exec, execSecFmtDsk, hb, Except.bind]

end

/-- Settles O45: each read answers the slice where its sectors fit, and fails where they do not. -/
theorem bufferReadsAnswerTheRun : Obligations.BufferReadsAnswerTheRun := by
  intro s ref b t n c hb
  rw [exec_secRead hb, exec_secReadM hb]
  refine ⟨fun hr hlen => ?_, fun h => ?_, fun hr hcount hlen => ?_, fun h => ?_⟩
  · rw [secRead_of_fits ⟨hr, hlen⟩, answerRead_ok]
  · rw [secRead_of_not_fits (not_sectorFits h), answerRead_error]
  · rw [secReadM, secRun_of_fits ⟨hr, hcount, hlen⟩]
    rfl
  · rw [secReadM, secRun_of_not_fits (not_runFits h)]
    rfl

/-- Settles O46: where the sector fits, the write lays the payload at the sector's offset, and the read takes it from there. -/
theorem bufferWriteReplacesOneSector : Obligations.BufferWriteReplacesOneSector := by
  intro s ref b t n data hb
  refine ⟨fun hdata hr hlen => ?_, fun hdata h => ?_⟩
  · have hfit : SectorFits b t n := ⟨hr, hlen⟩
    obtain ⟨u, hu, hback⟩ := answerWrite_ok hb (b.write ((t * 9 + (n - 1)) * 512) data)
    refine ⟨u, _, ?_, hback, sameBytesOutside_write hdata, holdsAt_write b _ data, secRead_write_same hfit hdata⟩
    rw [exec_secWrite hb hdata, secWrite_of_fits hfit, hu]
  · rw [exec_secWrite hb hdata, secWrite_of_not_fits (not_sectorFits h), answerWrite_error]

/-- Settles O47: the whole run is checked before the payload is laid at its offset. -/
theorem bufferRunWriteIsAllOrNothing : Obligations.BufferRunWriteIsAllOrNothing := by
  intro s ref b t n c data hb hdata
  have hmod : data.length % 512 = 0 := by rw [hdata, Nat.mul_mod_left]
  have hcount : data.length / 512 = c := by rw [hdata, Nat.mul_div_cancel c (by decide)]
  rw [exec_secWriteM hb hmod, secWriteM, hcount]
  refine ⟨fun hr hc hlen => ?_, fun h => ?_⟩
  · obtain ⟨u, hu, hback⟩ := answerWrite_ok hb (b.write ((t * 9 + (n - 1)) * 512) data)
    refine ⟨u, _, ?_, hback, sameBytesOutside_write hdata, holdsAt_write b _ data⟩
    rw [secRun_of_fits ⟨hr, hc, hlen⟩]
    exact hu
  · rw [secRun_of_not_fits (not_runFits h)]
    rfl

/-- Settles O48: a format clears the run of its target sectors, if the buffer holds all of them. -/
theorem bufferFormatsZeroTheirSectors : Obligations.BufferFormatsZeroTheirSectors := by
  intro s ref b t hb
  rw [exec_secFmtTrk hb, exec_secFmtDsk hb]
  refine ⟨fun ht hlen => ?_, fun h => ?_, fun hlen => ?_, fun h => ?_⟩
  · obtain ⟨u, hu, hback⟩ := answerWrite_ok hb (b.clear (t * 4608) 4608)
    rw [secFormatTrack_of_fits ht hlen]
    exact ⟨u, _, hu, hback, sameBytesOutside_clear b _ _, holdsAt_clear b _ _⟩
  · rw [secFormatTrack_of_not_fits h, answerWrite_error]
  · obtain ⟨u, hu, hback⟩ := answerWrite_ok hb (b.clear 0 184320)
    rw [secFormatDisk_of_fits hlen]
    exact ⟨u, _, hu, hback, sameBytesOutside_clear b _ _, holdsAt_clear b _ _⟩
  · rw [secFormatDisk_of_not_fits h, answerWrite_error]

/-- Settles O49: with no image in the slot, no buffer is there for the operation's own checks. -/
theorem bufferOperationsNeedAMountedSlot : Obligations.BufferOperationsNeedAMountedSlot := by
  intro s d t n c data hd hdata
  have hb := bufferOf_slot_of_not_ready hd
  have hmod : data.length % 512 = 0 := by omega
  exact ⟨answerRead_of_no_buffer hb _, (if_pos hdata).trans (answerWrite_of_no_buffer hb _), answerRead_of_no_buffer hb _,
    (if_pos hmod).trans (answerWrite_of_no_buffer hb _), answerWrite_of_no_buffer hb _, answerWrite_of_no_buffer hb _⟩

end Sys2Proof.Machine
end

section
/-! The slot level (R162 to R166): what the arbiter answers on a slot with no image, at an address that fails, and at one that
resolves. -/

namespace Sys2Proof.Machine

@[simp] theorem with_result_slot (s : State) (r : Result) (d : Drive) : ({ s with result := r } : State).slot d = s.slot d := by
  cases d <;> rfl

/-! ## The three arbiter operations, by what the drive and the address give -/

theorem arbRead_of_not_ready {s : State} {d : Option Drive} (h : s.slotOf d = none) (t n : Nat) :
    arbRead s d t n = .error .notReady := by
  simp only [arbRead, h]

theorem arbRead_of_mounted {s : State} {d : Option Drive} {sl : Slot} (h : s.slotOf d = some sl) (t n : Nat) :
    arbRead s d t n = (locateIn s.cfg sl.img t n).map (fun off => sl.img.slice off 512) := by
  simp only [arbRead, h]

theorem arbWrite_of_not_ready {s : State} {d : Option Drive} (h : s.slotOf d = none) (t n : Nat) (data : List Byte) :
    arbWrite s d t n data = .error .notReady := by
  simp only [arbWrite, h]

theorem arbWrite_of_mounted {s : State} {e : Drive} {sl : Slot} (h : s.slot e = some sl) (t n : Nat) (data : List Byte) :
    arbWrite s (some e) t n data
      = (locateIn s.cfg sl.img t n).map (fun off => s.setSlot e (some ⟨sl.img.write off data, true⟩)) := by
  simp only [arbWrite, slotOf_some, h, storeImage_some]

theorem arbFormatTrack_of_not_ready {s : State} {d : Option Drive} (h : s.slotOf d = none) (t : Nat) :
    arbFormatTrack s d t = .error .notReady := by
  simp only [arbFormatTrack, h]

theorem arbFormatTrack_of_mounted {s : State} {e : Drive} {sl : Slot} (h : s.slot e = some sl) (t : Nat) :
    arbFormatTrack s (some e) t
      = (locateIn s.cfg sl.img t 1).map (fun off => s.setSlot e (some ⟨sl.img.clear off 4608, true⟩)) := by
  simp only [arbFormatTrack, slotOf_some, h, storeImage_some]

theorem exec_arbRead (s : State) (d : Option Drive) (t n : Nat) :
    exec (.arbRead d t n) s = answerRead s (arbRead s d t n) := rfl

theorem exec_arbWrite {data : List Byte} (hdata : data.length = 512) (s : State) (d : Option Drive) (t n : Nat) :
    exec (.arbWrite d t n data) s = answerSlotWrite s (arbWrite s d t n data) := if_pos hdata

theorem exec_arbFmtTrk (s : State) (d : Option Drive) (t : Nat) :
    exec (.arbFmtTrk d t) s = answerSlotWrite s (arbFormatTrack s d t) := rfl

/-! ## Frame and read-back of a stored image -/

/-- Storing an image that differs only inside a run changes image memory only inside the run. -/
theorem sameImagesOutside_setSlot {s : State} {e : Drive} {sl : Slot} {img : ByteSeq} {off n : Nat} (hsl : s.slot e = some sl)
    (h : SameBytesOutside sl.img img off n) (dirty : Bool) (r : Result) :
    SameImagesOutside s { s.setSlot e (some ⟨img, dirty⟩) with result := r } e off n :=
  sameImagesOutside_of_slot hsl (fun d => by rw [with_result_slot, setSlot_slot]) h

/-- The address resolution looks at an image's length only. -/
theorem locateIn_write (p : Config.Params) (img : ByteSeq) (a : Nat) (data : List Byte) (t n : Nat) :
    locateIn p (img.write a data) t n = locateIn p img t n := rfl

/-- R165's law: ARB.READ answers the sector ARB.WRITE stored. -/
theorem exec_arbRead_written {s : State} {e : Drive} {sl : Slot} {t n off : Nat} {data : List Byte}
    (hloc : locateIn s.cfg sl.img t n = .ok off) (hdata : data.length = 512) (dirty : Bool) (r : Result) :
    exec (.arbRead (some e) t n) { s.setSlot e (some ⟨sl.img.write off data, dirty⟩) with result := r }
      = .next { s.setSlot e (some ⟨sl.img.write off data, dirty⟩) with result := .bytes data } := by
  have hmounted : State.slotOf { s.setSlot e (some ⟨sl.img.write off data, dirty⟩) with result := r } (some e)
      = some ⟨sl.img.write off data, dirty⟩ := by
    rw [slotOf_some, with_result_slot, setSlot_slot_same]
  have hslice : (sl.img.write off data).slice off 512 = data := by
    simpa only [hdata] using ByteSeq.slice_write sl.img off data
  rw [exec_arbRead, arbRead_of_mounted hmounted, locateIn_write, setSlot_cfg, hloc]
  simp only [Except.map, hslice, answerRead_ok]

/-- Settles O50: the sector is the slice at the offset a valid address resolves to. -/
theorem slotReadAnswersTheSector : Obligations.SlotReadAnswersTheSector := by
  intro s d t n
  refine ⟨fun h => ?_, fun sl hsl => ⟨fun h => ?_, fun h => ?_⟩⟩
  · rw [exec_arbRead, arbRead_of_not_ready h, answerRead_error]
  · refine ⟨sl.img.slice (offsetOn s.cfg sl.img t n) 512, ?_, ByteSeq.slice_length _ _ _, ByteSeq.slice_getElem? _ _ _⟩
    rw [exec_arbRead, arbRead_of_mounted hsl, locateIn_of_validOn h]
    rfl
  · rw [exec_arbRead, arbRead_of_mounted hsl, locateIn_of_not_validOn h]
    rfl

/-- Settles O51: the payload is laid at the resolved offset of the mounted image, where the read takes it from. -/
theorem slotWriteReadsBack : Obligations.SlotWriteReadsBack := by
  intro s d t n data
  refine ⟨fun hdata h => ?_, ?_⟩
  · rw [exec_arbWrite hdata, arbWrite_of_not_ready h, answerSlotWrite_error]
  · rintro e sl hdata rfl hsl
    rw [exec_arbWrite hdata, arbWrite_of_mounted hsl]
    refine ⟨fun h => by rw [h]; rfl, fun off hloc => ?_⟩
    have hframe : SameBytesOutside sl.img (sl.img.write off data) off 512 := sameBytesOutside_write hdata
    refine ⟨_, sl.img.write off data, by rw [hloc]; exact answerSlotWrite_ok _ _, rfl, hframe, holdsAt_write _ _ _, ?_, ?_⟩
    · exact sameImagesOutside_setSlot hsl hframe true .done
    · exact exec_arbRead_written hloc hdata true .done

/-- Settles O52: the nine sectors from the resolved offset on are cleared in the mounted image. -/
theorem slotFormatZeroesTheTrack : Obligations.SlotFormatZeroesTheTrack := by
  intro s d t
  refine ⟨fun h => ?_, ?_⟩
  · rw [exec_arbFmtTrk, arbFormatTrack_of_not_ready h, answerSlotWrite_error]
  · rintro e sl rfl hsl
    rw [exec_arbFmtTrk, arbFormatTrack_of_mounted hsl]
    refine ⟨fun h => by rw [h]; rfl, fun off hloc => ?_⟩
    have hframe : SameBytesOutside sl.img (sl.img.clear off 4608) off 4608 := sameBytesOutside_clear _ _ _
    exact ⟨_, sl.img.clear off 4608, by rw [hloc]; exact answerSlotWrite_ok _ _, rfl, hframe, holdsAt_clear _ _ _,
      sameImagesOutside_setSlot hsl hframe true .done⟩

end Sys2Proof.Machine
end

section
/-! The host's media operations (R170 to R181): what a persist and an unmount do to one slot, and what the operations made of them
answer and leave. -/

namespace Sys2Proof.Machine

/-! ## Slots -/

theorem setSlot_self {s : State} {d : Drive} {x : Option Slot} (h : s.slot d = x) : s.setSlot d x = s := by
  subst h
  cases d <;> rfl

/-- A state whose slots were rewritten is the old one but for the slots and the model's own fields. -/
theorem SlotsRewritten.eq_with {s t : State} (h : SlotsRewritten s t) :
    t = { s with slotA := t.slotA, slotB := t.slotB, freeIdx := t.freeIdx, result := t.result } := by
  obtain ⟨⟨_, _, _, _, rfl⟩, -⟩ := h
  rfl

/-! ## HOST.PERSIST on one slot -/

theorem persistSlot_of_empty {d : Drive} {s : State} (h : s.slot d = none) (io : IoOutcome) : persistSlot d io s = ⟨s, [], true⟩ := by
  simp only [persistSlot, h]

theorem persistSlot_of_clean {d : Drive} {s : State} {sl : Slot} (h : s.slot d = some sl) (hd : sl.dirty = false) (io : IoOutcome) :
    persistSlot d io s = ⟨s, [], true⟩ := by
  simp [persistSlot, h, hd]

theorem persistSlot_of_dirty_ok {d : Drive} {s : State} {sl : Slot} (h : s.slot d = some sl) (hd : sl.dirty = true) :
    persistSlot d .ok s = ⟨s.setSlot d (some ⟨sl.img, false⟩), [(d, sl.img)], true⟩ := by
  simp [persistSlot, h, hd]

theorem persistSlot_of_dirty_error {d : Drive} {s : State} {sl : Slot} (h : s.slot d = some sl) (hd : sl.dirty = true) :
    persistSlot d .error s = ⟨s, [], false⟩ := by
  simp [persistSlot, h, hd]

/-- A drive has no dirty image. -/
def State.Clean (s : State) (d : Drive) : Prop := ∀ sl, s.slot d = some sl → sl.dirty = false

/-- Everything `persistSlot` can do (R173). -/
theorem persistSlot_cases (d : Drive) (io : IoOutcome) (s : State) :
    (s.Clean d ∧ persistSlot d io s = ⟨s, [], true⟩)
      ∨ (∃ img, s.slot d = some ⟨img, true⟩ ∧ io = .ok
          ∧ persistSlot d io s = ⟨s.setSlot d (some ⟨img, false⟩), [(d, img)], true⟩)
      ∨ (∃ img, s.slot d = some ⟨img, true⟩ ∧ io = .error ∧ persistSlot d io s = ⟨s, [], false⟩) := by
  cases h : s.slot d with
  | none => exact .inl ⟨by simp [State.Clean, h], persistSlot_of_empty h io⟩
  | some sl =>
    obtain ⟨img, dirty⟩ := sl
    cases dirty
    · exact .inl ⟨by simp [State.Clean, h], persistSlot_of_clean h rfl io⟩
    · cases io
      · exact .inr (.inl ⟨img, rfl, rfl, persistSlot_of_dirty_ok h rfl⟩)
      · exact .inr (.inr ⟨img, rfl, rfl, persistSlot_of_dirty_error h rfl⟩)

theorem persistSlot_freeIdx (d : Drive) (io : IoOutcome) (s : State) : (persistSlot d io s).st.freeIdx = s.freeIdx := by
  rcases persistSlot_st d io s with he | ⟨_, -, he⟩ <;> rw [he]
  exact setSlot_freeIdx s d _

theorem persistSlot_slot_other {d d' : Drive} (h : d' ≠ d) (io : IoOutcome) (s : State) :
    (persistSlot d io s).st.slot d' = s.slot d' := by
  rcases persistSlot_st d io s with he | ⟨_, -, he⟩ <;> rw [he]
  exact setSlot_slot_other s d d' _ h

/-- R173: a persist keeps the image. -/
theorem sameImages_persistSlot (d : Drive) (io : IoOutcome) (s : State) : SameImages s (persistSlot d io s).st := by
  intro d' a
  rcases persistSlot_st d io s with he | ⟨sl, hsl, he⟩ <;> rw [he]
  by_cases hd : d' = d
  · subst hd
    simp [imgByte_eq, hsl]
  · simp [imgByte_eq, setSlot_slot_other s d d' _ hd]

/-- A persist is reported as done exactly if the slot has no dirty image afterwards. -/
theorem persistSlot_ok_iff (d : Drive) (io : IoOutcome) (s : State) :
    (persistSlot d io s).ok = true ↔ (persistSlot d io s).st.Clean d := by
  rcases persistSlot_cases d io s with ⟨hclean, he⟩ | ⟨img, -, -, he⟩ | ⟨img, hsl, -, he⟩ <;> rw [he]
  · exact iff_of_true rfl hclean
  · exact iff_of_true rfl (by simp [State.Clean])
  · exact iff_of_false Bool.false_ne_true fun h => Bool.noConfusion (h _ hsl)

/-- R173: with I/O that succeeds the image handed over is the dirty one. -/
theorem persistSlot_io_ok (d : Drive) (s : State) :
    (persistSlot d .ok s).ok = true
      ∧ ∀ e img, (e, img) ∈ (persistSlot d .ok s).out ↔ e = d ∧ s.slot d = some ⟨img, true⟩ := by
  rcases persistSlot_cases d .ok s with ⟨hclean, he⟩ | ⟨img, hsl, -, he⟩ | ⟨_, -, hio, -⟩
  · rw [he]
    exact ⟨rfl, fun e img => iff_of_false List.not_mem_nil fun h => Bool.noConfusion (hclean _ h.2)⟩
  · rw [he]
    exact ⟨rfl, fun e img' => by simp [hsl, eq_comm]⟩
  · cases hio

/-! ## HOST.UNMOUNT on one slot -/

theorem unmountSlot_of_empty {d : Drive} {s : State} (h : s.slot d = none) (io : IoOutcome) : unmountSlot d io s = ⟨s, [], true⟩ := by
  simp only [unmountSlot, h]

theorem unmountSlot_of_clean {d : Drive} {s : State} {sl : Slot} (h : s.slot d = some sl) (hd : sl.dirty = false) (io : IoOutcome) :
    unmountSlot d io s = ⟨s.setSlot d none, [], true⟩ := by
  simp [unmountSlot, h, hd]

theorem unmountSlot_of_dirty_ok {d : Drive} {s : State} {sl : Slot} (h : s.slot d = some sl) (hd : sl.dirty = true) :
    unmountSlot d .ok s = ⟨s.setSlot d none, [(d, sl.img)], true⟩ := by
  simp [unmountSlot, h, hd]

/-- U9: after failed I/O the slot is as it was or empty, as the free value says. -/
theorem unmountSlot_of_dirty_error {d : Drive} {s : State} {sl : Slot} (h : s.slot d = some sl) (hd : sl.dirty = true) :
    unmountSlot d .error s = ⟨{ s with freeIdx := s.freeIdx + 1 }, [], false⟩
      ∨ unmountSlot d .error s = ⟨{ s.setSlot d none with freeIdx := s.freeIdx + 1 }, [], false⟩ := by
  cases hfree : Config.freeBool s.freeIdx
  · exact .inr (by simp [unmountSlot, h, hd, hfree])
  · exact .inl (by simp [unmountSlot, h, hd, hfree, setSlot_self h])

@[simp] theorem with_freeIdx_slot (s : State) (n : Nat) (d : Drive) : ({ s with freeIdx := n } : State).slot d = s.slot d := by
  cases d <;> rfl

theorem unmountSlot_slot_other {d d' : Drive} (h : d' ≠ d) (io : IoOutcome) (s : State) :
    (unmountSlot d io s).st.slot d' = s.slot d' := by
  rcases unmountSlot_st d io s with ⟨-, he⟩ | ⟨_, -, -, he⟩ | ⟨_, -, -, -, he⟩ <;> rw [he]
  · exact setSlot_slot_other s d d' _ h
  · rw [with_freeIdx_slot, setSlot_slot_other s d d' _ h]

theorem unmountSlot_slot_same (d : Drive) (io : IoOutcome) (s : State) :
    (unmountSlot d io s).st.slot d = s.slot d ∨ (unmountSlot d io s).st.slot d = none := by
  rcases unmountSlot_st d io s with ⟨-, he⟩ | ⟨_, -, -, he⟩ | ⟨sl, hsl, -, -, he⟩ <;> rw [he]
  · exact .inl rfl
  · exact .inr (setSlot_slot_same s d none)
  · rw [with_freeIdx_slot, setSlot_slot_same, hsl]
    exact ite_eq_or_eq _ _ _

/-- R172, R175: with I/O that succeeds the slot is empty afterwards and the image handed over is the dirty one. -/
theorem unmountSlot_io_ok (d : Drive) (s : State) :
    (unmountSlot d .ok s).st.slot d = none ∧ (unmountSlot d .ok s).st.freeIdx = s.freeIdx
      ∧ ∀ e img, (e, img) ∈ (unmountSlot d .ok s).out ↔ e = d ∧ s.slot d = some ⟨img, true⟩ := by
  cases h : s.slot d with
  | none =>
    rw [unmountSlot_of_empty h]
    exact ⟨h, rfl, by simp⟩
  | some sl =>
    obtain ⟨img, dirty⟩ := sl
    cases dirty
    · rw [unmountSlot_of_clean h rfl]
      exact ⟨setSlot_slot_same s d none, setSlot_freeIdx s d none, by simp⟩
    · rw [unmountSlot_of_dirty_ok h rfl]
      exact ⟨setSlot_slot_same s d none, setSlot_freeIdx s d none, fun e img' => by simp [eq_comm]⟩

/-! ## One slot: mount, unmount, persist -/

/-- Settles O53: the operands are tested first, then the length, then the slot. -/
theorem mountInstallsOrFails : Obligations.MountInstallsOrFails := by
  intro s
  refine ⟨fun e img hlen => ?_, fun d img h => ?_⟩
  · have hlen' : ¬(img.len ≠ Config.img360K ∧ img.len ≠ Config.img720K) := fun ⟨h1, h2⟩ => hlen.elim h1 h2
    simp only [exec, execHostMount, if_neg hlen']
    cases s.slot e with
    | none => exact ⟨fun _ => rfl, fun h => absurd rfl h⟩
    | some sl => exact ⟨fun h => absurd h (Option.some_ne_none sl), fun _ => rfl⟩
  · match d, img with
    | none, _ => rfl
    | some _, none => rfl
    | some e, some b =>
      have hlen : b.len ≠ 368640 ∧ b.len ≠ 737280 := by simpa using h
      exact if_pos hlen

theorem exec_hostUnmount_of_mounted {s : State} {e : Drive} {sl : Slot} (h : s.slot e = some sl) (io : IoOutcome) :
    exec (.hostUnmount (some e) io) s
      = .next { (unmountSlot e io s).st with result := .persisted (unmountSlot e io s).out (unmountSlot e io s).ok } := by
  simp only [exec, execHostUnmount, h, answer_eq]

/-- Settles O54: a mounted slot is unmounted as R172 says for its `dirty` flag and the I/O; any other drive fails. -/
theorem unmountPersistsThenReleases : Obligations.UnmountPersistsThenReleases := by
  intro s
  refine ⟨fun d io h => ?_, fun e sl hsl => ⟨fun hd io => ?_, fun hd => ?_, fun hd => ?_⟩⟩
  · cases d with
    | none => rfl
    | some e =>
      rw [slotOf_some] at h
      simp only [exec, execHostUnmount, h, answer_eq]
  · rw [exec_hostUnmount_of_mounted hsl, unmountSlot_of_clean hsl hd]
  · rw [exec_hostUnmount_of_mounted hsl, unmountSlot_of_dirty_ok hsl hd]
  · rw [exec_hostUnmount_of_mounted hsl]
    rcases unmountSlot_of_dirty_error hsl hd with he | he <;> rw [he]
    · exact ⟨_, rfl, .inl rfl⟩
    · exact ⟨_, rfl, .inr rfl⟩

theorem exec_hostPersist_of_mounted {s : State} {e : Drive} {sl : Slot} (h : s.slot e = some sl) (io : IoOutcome) :
    exec (.hostPersist (some e) io) s
      = .next { (persistSlot e io s).st with result := .persisted (persistSlot e io s).out (persistSlot e io s).ok } := by
  simp only [exec, execHostPersist, slotOf_some, h, answer_eq]

/-- Settles O55: a mounted slot is persisted as R173 says for its `dirty` flag and the I/O; on any other drive only a free value is
used. -/
theorem persistClearsDirty : Obligations.PersistClearsDirty := by
  intro s
  refine ⟨fun e sl hsl => ⟨fun hd => ?_, fun hd io => ?_, fun hd => ?_⟩, fun d io h => ⟨Config.freeBool s.freeIdx, ?_⟩⟩
  · rw [exec_hostPersist_of_mounted hsl, persistSlot_of_dirty_ok hsl hd]
  · rw [exec_hostPersist_of_mounted hsl, persistSlot_of_clean hsl hd]
  · rw [exec_hostPersist_of_mounted hsl, persistSlot_of_dirty_error hsl hd]
  · simp only [exec, execHostPersist, h, answer_eq]

/-! ## Both slots: save all, unmount all -/

/-- Settles O56: each slot is persisted once, and the persist of one does not touch the other. -/
theorem saveAllPersistsEverySlot : Obligations.SaveAllPersistsEverySlot := by
  intro s ioA ioB
  have hA : (persistSlot .B ioB (persistSlot .A ioA s).st).st.slot .A = (persistSlot .A ioA s).st.slot .A :=
    persistSlot_slot_other (by decide) ioB _
  have hB : (persistSlot .A ioA s).st.slot .B = s.slot .B := persistSlot_slot_other (by decide) ioA s
  refine ⟨_, (persistSlot .A ioA s).out ++ (persistSlot .B ioB (persistSlot .A ioA s).st).out,
    (persistSlot .A ioA s).ok && (persistSlot .B ioB (persistSlot .A ioA s).st).ok, rfl, ?_, fun d a => ?_, ?_, ?_⟩
  · have hfree := (persistSlot_freeIdx .B ioB _).trans (persistSlot_freeIdx .A ioA s)
    have hslots := (slotsRewritten_persistSlot .A ioA s).trans (slotsRewritten_persistSlot .B ioB _)
    exact (hslots.trans (slotsRewritten_result _ _)).eq_with.trans (by simp only [hfree])
  · simpa only [imgByte_eq, with_result_slot] using
      (sameImages_persistSlot .B ioB _ d a).trans (sameImages_persistSlot .A ioA s d a)
  · rw [Bool.and_eq_true, persistSlot_ok_iff, persistSlot_ok_iff]
    simp only [State.Clean, with_result_slot]
    rw [← hA]
    exact ⟨fun ⟨h1, h2⟩ e => by cases e; exacts [h1, h2], fun h => ⟨h .A, h .B⟩⟩
  · rintro rfl rfl
    obtain ⟨hokA, houtA⟩ := persistSlot_io_ok .A s
    obtain ⟨hokB, houtB⟩ := persistSlot_io_ok .B (persistSlot .A .ok s).st
    refine ⟨by rw [hokA, hokB]; rfl, fun e img => ?_⟩
    rw [List.mem_append, houtA, houtB, hB]
    cases e <;> simp

/-- Settles O57: each slot is unmounted once, and the unmount of one does not touch the other. -/
theorem unmountAllEmptiesBothSlots : Obligations.UnmountAllEmptiesBothSlots := by
  intro s ioA ioB
  have hA : (unmountSlot .B ioB (unmountSlot .A ioA s).st).st.slot .A = (unmountSlot .A ioA s).st.slot .A :=
    unmountSlot_slot_other (by decide) ioB _
  have hB : (unmountSlot .A ioA s).st.slot .B = s.slot .B := unmountSlot_slot_other (by decide) ioA s
  refine ⟨_, (unmountSlot .A ioA s).out ++ (unmountSlot .B ioB (unmountSlot .A ioA s).st).out, rfl, ?_, fun e => ?_, ?_⟩
  · have hslots := (slotsRewritten_unmountSlot .A ioA s).trans (slotsRewritten_unmountSlot .B ioB _)
    exact (hslots.trans (slotsRewritten_result _ _)).eq_with
  · rw [with_result_slot]
    cases e with
    | A => rw [hA]; exact unmountSlot_slot_same .A ioA s
    | B => rw [← hB]; exact unmountSlot_slot_same .B ioB _
  · rintro rfl rfl
    obtain ⟨hemptyA, hfreeA, houtA⟩ := unmountSlot_io_ok .A s
    obtain ⟨hemptyB, hfreeB, houtB⟩ := unmountSlot_io_ok .B (unmountSlot .A .ok s).st
    refine ⟨hA.trans hemptyA, hemptyB, hfreeB.trans hfreeA, fun e img => ?_⟩
    rw [List.mem_append, houtA, houtB, hB]
    cases e <;> simp

/-! ## New images and direct access -/

/-- Settles O58: the image is the zero sequence of the requested length. -/
theorem createMakesAZeroImage : Obligations.CreateMakesAZeroImage := by
  intro s path big io
  exact ⟨ByteSeq.zeros (if big then 737280 else 368640), rfl, ByteSeq.zeros_len _, ByteSeq.wf_zeros _, ByteSeq.zeros_read _⟩

/-- R181: with each offset listed once, each listed byte is the one replaced at its offset. -/
theorem read_replace_of_listed (b : ByteSeq) (cells : List Host.Cell) (hnodup : (cells.map Prod.fst).Nodup) :
    ∀ c ∈ cells, (b.replace cells).read c.1 = c.2 := by
  induction cells generalizing b with
  | nil => simp
  | cons c cells ih =>
    obtain ⟨hnew, hrest⟩ := List.nodup_cons.1 hnodup
    intro x hx
    rw [ByteSeq.replace_cons]
    rcases List.mem_cons.1 hx with rfl | hx
    · have hfresh : ∀ y ∈ cells, y.1 ≠ x.1 := fun y hy he => hnew (he ▸ List.mem_map_of_mem hy)
      rw [ByteSeq.read_replace_of_not_listed _ _ _ hfresh, ByteSeq.read_write, if_pos (by simp)]
      simp
    · exact ih _ hrest x hx

/-- Settles O59: on a mounted image the listed offsets are tested, then read or replaced one after another. -/
theorem hostImageReadsOrReplaces : Obligations.HostImageReadsOrReplaces := by
  intro s
  refine ⟨fun e sl hsl => ?_, fun d op h => ?_⟩
  · simp only [exec, execHostImage, slotOf_some, hsl, storeImage_some, answer_eq]
    refine ⟨fun offsets hin => ?_, fun cells hin => ?_, fun offsets hout => ?_, fun cells hout => ?_⟩
    · exact if_pos (by simpa using hin)
    · exact ⟨_, sl.img.replace cells, if_pos (by simpa using hin), rfl, ByteSeq.replace_len _ _,
        ByteSeq.read_replace_of_not_listed _ _, read_replace_of_listed _ _⟩
    · exact if_neg (by simpa using hout)
    · exact if_neg (by simpa using hout)
  · simp only [exec, execHostImage, h]

end Sys2Proof.Machine
end

section
/-! Who writes the slots (R167, R168): every shared operation outside the arbiter's writes and the host's steps keeps both. -/

namespace Sys2Proof.Machine

/-- Both drive slots are as before: image, `dirty` flag and whether an image is mounted. -/
structure SameSlots (s t : State) : Prop where
  slotA : t.slotA = s.slotA
  slotB : t.slotB = s.slotB

theorem SameSlots.refl (s : State) : SameSlots s s := ⟨rfl, rfl⟩

/-! ## Answers -/

theorem SameSlots.of_answer {s s' t : State} {r : Result} (h : answer r s' = .next t) (hs : SameSlots s s') : SameSlots s t := by
  obtain rfl := answer_next_iff.1 h
  exact ⟨hs.slotA, hs.slotB⟩

theorem SameSlots.of_answerRead {s t : State} {r : Except UnitFailure (List Byte)} (h : answerRead s r = .next t) :
    SameSlots s t := by
  cases r with
  | error f => exact .of_answer h (.refl s)
  | ok bytes => exact .of_answer h (.refl s)

/-- R155: a handed buffer is handed back; no slot holds it. -/
theorem SameSlots.of_answerWrite_handed {s t : State} {b : ByteSeq} {r : Except UnitFailure ByteSeq}
    (h : answerWrite s (.handed b) r = .next t) : SameSlots s t := by
  cases r with
  | error f => exact .of_answer h (.refl s)
  | ok b' => exact .of_answer h (.refl s)

/-! ## COMMAND writes -/

theorem readSectorBody_sameSlots (s : State) : SameSlots s (readSectorBody s) := by
  rcases readSectorBody_cases s with ⟨_, -, he⟩ | ⟨_, _, _, -, -, -, he | he⟩ <;> rw [he] <;> exact ⟨rfl, rfl⟩

theorem readIdBody_sameSlots (s : State) : SameSlots s (readIdBody s) := by
  obtain ⟨_, -, he⟩ := readIdBody_cases s
  rw [he]
  exact ⟨rfl, rfl⟩

theorem SameSlots.of_accept {s t : State} {v : Byte} (h : SameSlots (accept v s) t) : SameSlots s t := ⟨h.slotA, h.slotB⟩

/-- Of the nine bodies only FORMAT_TRACK's writes a slot. -/
theorem issue_sameSlots {v : Byte} {s : State} (hv : decodeCommand s.cfg v ≠ .formatTrack) : SameSlots s (issue v s) := by
  unfold issue
  unfold decodeCommand at hv
  split_ifs at hv ⊢ with hread hwrite hseek hstatus hformat hid hrecal hsense
  · exact .of_accept (readSectorBody_sameSlots _)
  · exact ⟨rfl, rfl⟩
  · exact ⟨rfl, rfl⟩
  · exact ⟨rfl, rfl⟩
  · exact absurd rfl hv
  · exact .of_accept (readIdBody_sameSlots _)
  · exact ⟨rfl, rfl⟩
  · exact ⟨rfl, rfl⟩
  · exact ⟨rfl, rfl⟩

theorem SameSlots.of_commandWrite {s t : State} {v : Byte} {body : State → State} (h : commandWrite v body s = .next t)
    (hbody : ∀ u, SameSlots u (body u)) : SameSlots s t := by
  unfold commandWrite at h
  split at h
  · exact .of_answer h (.refl s)
  · exact .of_answer h (.of_accept (hbody (accept v s)))

/-- A FORMAT_TRACK written while BUSY is dropped (R193). -/
theorem SameSlots.of_commandWrite_busy {s t : State} {v : Byte} {body : State → State} (hbusy : isBusy s = true)
    (h : commandWrite v body s = .next t) : SameSlots s t := by
  rw [commandWrite, if_pos hbusy] at h
  exact .of_answer h (.refl s)

theorem SameSlots.of_execWrCommand {s t : State} {v : Byte} (hkeep : isBusy s = false → decodeCommand s.cfg v ≠ .formatTrack)
    (h : execWrCommand v s = .next t) : SameSlots s t := by
  unfold execWrCommand at h
  split at h
  · exact .of_answer h (.refl s)
  · next hidle => exact .of_answer h (issue_sameSlots (hkeep (Bool.eq_false_iff.mpr hidle)))

/-! ## DATA and pass-through accesses -/

theorem SameSlots.of_execRdData {s t : State} (h : execRdData s = .next t) : SameSlots s t := by
  unfold execRdData at h
  split at h
  · split at h
    · cases h
    · exact .of_answer h ⟨rfl, rfl⟩
  · exact .of_answer h (.refl s)

/-- R197: of the DATA writes only the 512th of a write data phase commits. -/
theorem SameSlots.of_execWrData {s t : State} {v : Byte} (hkeep : ¬(s.phase = .awaitingData ∧ s.xferIdx = 511))
    (h : execWrData v s = .next t) : SameSlots s t := by
  unfold execWrData at h
  split at h
  · next hphase =>
    split at h
    · split at h
      · next hlast => exact absurd ⟨hphase, Nat.succ.inj hlast⟩ hkeep
      · exact .of_answer h ⟨rfl, rfl⟩
    · cases h
  · exact .of_answer h ⟨rfl, rfl⟩

theorem SameSlots.of_execRdPad {s t : State} {k : Nat} (h : execRdPad k s = .next t) : SameSlots s t := by
  unfold execRdPad at h
  split at h
  · cases h
  · exact .of_answer h (.refl s)

theorem SameSlots.of_execWrPad {s t : State} {k : Nat} {v : Byte} (h : execWrPad k v s = .next t) : SameSlots s t := by
  unfold execWrPad at h
  split at h
  · exact .of_answer h ⟨rfl, rfl⟩
  · cases h

/-! ## Unit operations -/

theorem SameSlots.of_execCrcVerify {s t : State} {sector : List Byte} (h : execCrcVerify sector s = .next t) : SameSlots s t := by
  unfold execCrcVerify at h
  split at h
  · exact .of_answer h (.refl s)
  · cases h

theorem SameSlots.of_execSatP2L {s t : State} {track sector : Nat} (h : execSatP2L track sector s = .next t) : SameSlots s t := by
  unfold execSatP2L at h
  split at h <;> exact .of_answer h (.refl s)

theorem SameSlots.of_execSatL2P {s t : State} {index : Nat} (h : execSatL2P index s = .next t) : SameSlots s t := by
  unfold execSatL2P at h
  split at h <;> exact .of_answer h (.refl s)

theorem SameSlots.of_execSecWrite_handed {s t : State} {b : ByteSeq} {track sector : Nat} {data : List Byte}
    (h : execSecWrite (.handed b) track sector data s = .next t) : SameSlots s t := by
  unfold execSecWrite at h
  split at h
  · exact .of_answerWrite_handed h
  · cases h

theorem SameSlots.of_execSecWriteM_handed {s t : State} {b : ByteSeq} {track sector : Nat} {data : List Byte}
    (h : execSecWriteM (.handed b) track sector data s = .next t) : SameSlots s t := by
  unfold execSecWriteM at h
  split at h
  · exact .of_answerWrite_handed h
  · cases h

theorem SameSlots.of_execHostImage_readBytes {s t : State} {d : Option Drive} {offsets : List Nat}
    (h : execHostImage d (.readBytes offsets) s = .next t) : SameSlots s t := by
  unfold execHostImage at h
  split at h
  · cases h
  · dsimp only at h
    split at h
    · exact .of_answer h (.refl s)
    · cases h

theorem SameSlots.of_execFire {s t : State} (h : execFire s = .next t) : SameSlots s t := by
  unfold execFire at h
  split at h
  · exact .of_answer h ⟨rfl, rfl⟩
  · cases h

/-! ## Every operation -/

theorem sameSlots_of_exec {s t : State} {i : Instr} (hkeep : mayChangeSlots s i = false) (h : exec i s = .next t) :
    SameSlots s t := by
  cases i with
  | readSector => exact .of_commandWrite h readSectorBody_sameSlots
  | readId => exact .of_commandWrite h readIdBody_sameSlots
  | writeSector | seekTrack | readStatus | recalibrate | senseInterrupt => exact .of_commandWrite h fun _ => ⟨rfl, rfl⟩
  | invalid v => exact .of_commandWrite h fun _ => ⟨rfl, rfl⟩
  | formatTrack => exact .of_commandWrite_busy (by simpa [mayChangeSlots] using hkeep) h
  | wrCommand v => exact .of_execWrCommand (by simpa [mayChangeSlots] using hkeep) h
  | rdData => exact .of_execRdData h
  | wrData v => exact .of_execWrData (of_decide_eq_false hkeep) h
  | rdPad k => exact .of_execRdPad h
  | wrPad k v => exact .of_execWrPad h
  | rdCommand | rdStatus | rdDriveSelect | rdTrack | rdSector | rdDmaAddrLow | rdDmaAddrHigh | rdDmaCount | rdControl =>
    exact .of_answer h (.refl s)
  | wrStatus v | wrDriveSelect v | wrTrack v | wrSector v | wrDmaAddrLow v | wrDmaAddrHigh v | wrDmaCount v | wrControl v =>
    exact .of_answer h ⟨rfl, rfl⟩
  | crcCompute data => exact .of_answer h (.refl s)
  | crcVerify sector => exact .of_execCrcVerify h
  | satP2L track sector => exact .of_execSatP2L h
  | satL2P index => exact .of_execSatL2P h
  | secRead b track sector => exact .of_answerRead h
  | secReadM b track sector count => exact .of_answerRead h
  | arbRead d track sector => exact .of_answerRead h
  | secWrite b track sector data =>
    cases b with
    | handed b => exact .of_execSecWrite_handed h
    | slot d => cases hkeep
  | secWriteM b track sector data =>
    cases b with
    | handed b => exact .of_execSecWriteM_handed h
    | slot d => cases hkeep
  | secFmtTrk b track =>
    cases b with
    | handed b => exact .of_answerWrite_handed h
    | slot d => cases hkeep
  | secFmtDsk b =>
    cases b with
    | handed b => exact .of_answerWrite_handed h
    | slot d => cases hkeep
  | hostImage d op =>
    cases op with
    | readBytes offsets => exact .of_execHostImage_readBytes h
    | replaceBytes cells => cases hkeep
  | arbWrite | arbFmtTrk | hostMount | hostUnmount | hostPersist | hostSaveAll | hostUnmountAll => cases hkeep
  | hostCreate path is720KB io => exact .of_answer h (.refl s)
  | fire => exact .of_execFire h
  | reset => exact .of_answer h ⟨rfl, rfl⟩

/-- Settles O14: every operation outside the writers of R167 and R168 keeps both slots, and so every image byte. -/
theorem slotsChangeOnlyThroughArbiterAndHost : Obligations.SlotsChangeOnlyThroughArbiterAndHost := by
  intro s t i hkeep h
  obtain ⟨hA, hB⟩ := sameSlots_of_exec hkeep h
  exact ⟨hA, hB, sameImages_of_slots hA hB⟩

end Sys2Proof.Machine
end

section
/-! Where an access lands (R61, R202): a bus address selects its offset in the window, or none. -/

namespace Sys2Proof

theorem windowOffset_of_inside {p : Config.Params} {off : Nat} (hoff : off < p.window) :
    windowOffset p (p.fdcBase + off) = some off := by
  rw [windowOffset, if_pos ⟨Nat.le_add_right _ _, Nat.add_lt_add_left hoff _⟩, Nat.add_sub_cancel_left]

theorem windowOffset_of_outside {p : Config.Params} {addr : Nat} (h : addr < p.fdcBase ∨ p.fdcBase + p.window ≤ addr) :
    windowOffset p addr = none :=
  if_neg (by omega)

end Sys2Proof

namespace Sys2Proof.Machine

/-- R202: an access that does not reach the block is taken from the inbox and answers nothing. -/
theorem step_of_outside_window {s : State} {r : Request} {rest : List Request} (hin : s.inbox = r :: rest)
    (hdec : decode s.cfg r = .error .outsideWindow) : step s = .next { s with inbox := rest, result := .none } := by
  simp only [step, hin, hdec]

/-- Settles O4: inside the window the decoder finds the access at the offset, outside it finds none. -/
theorem windowAddressDecoding : Obligations.WindowAddressDecoding := by
  refine ⟨fun s addr a rest hin => ⟨?_, fun hout => ?_⟩, fun s off a rest hin => ⟨fun hoff => ?_, fun hout => ?_⟩⟩
  · rintro off rfl hoff
    exact step_of_decode_ok hin (by simp only [decode, windowOffset_of_inside hoff])
  · exact step_of_outside_window hin (by simp only [decode, windowOffset_of_outside hout])
  · exact step_of_decode_ok hin (if_pos hoff)
  · exact step_of_outside_window hin (if_neg (Nat.not_lt.mpr hout))

end Sys2Proof.Machine
end

section
/-! The plain register accesses (R192 to R201): those that only read or store one byte. -/

namespace Sys2Proof.Machine

/-! ## Registers -/

/-- R192, R194, R198: DATA is the one register whose read can do more than answer. -/
theorem exec_readRegister {r : RegName} (hr : r ≠ .data) (s : State) :
    exec (decodeRegister r .rd) s = .next { s with result := .byte (s.reg r) } := by
  cases r with
  | data => exact absurd rfl hr
  | command | status | driveSelect | track | sector | dmaAddrLow | dmaAddrHigh | dmaCount | control => rfl

/-- R195, R199: a write of any register but COMMAND and DATA touches no more than an operand register. -/
theorem exec_writeRegister_eraseOperands {r : RegName} (hcommand : r ≠ .command) (hdata : r ≠ .data) (s : State) (v : Byte) :
    ∃ t, exec (decodeRegister r (.wr v)) s = .next t ∧ t.eraseOperands = s.eraseOperands := by
  cases r with
  | command => exact absurd rfl hcommand
  | data => exact absurd rfl hdata
  | status | driveSelect | track | sector | dmaAddrLow | dmaAddrHigh | dmaCount | control => exact ⟨_, rfl, rfl⟩

/-! ## Pass-through bytes -/

theorem exec_rdPad {s : State} {k : Nat} {v : Byte} (hk : s.pad[k]? = some v) :
    exec (.rdPad k) s = .next { s with result := .byte v } := by
  show execRdPad k s = _
  simp only [execRdPad, hk, answer_eq]

theorem exec_wrPad {s : State} {k : Nat} (hk : k < s.pad.length) (v : Byte) :
    exec (.wrPad k v) s = .next { s with pad := s.pad.set k v, result := .done } :=
  if_pos hk

/-- Settles O27: none of these reads is that of DATA. -/
theorem plainReadsAnswerStoredByte : Obligations.PlainReadsAnswerStoredByte := by
  intro s
  have hread {r : RegName} (hr : r ≠ .data) := exec_readRegister hr s
  exact ⟨hread (r := .command) (by decide), hread (r := .status) (by decide), hread (r := .driveSelect) (by decide),
    hread (r := .track) (by decide), hread (r := .sector) (by decide), hread (r := .dmaAddrLow) (by decide),
    hread (r := .dmaAddrHigh) (by decide), hread (r := .dmaCount) (by decide), hread (r := .control) (by decide),
    fun _ _ => exec_rdPad⟩

/-- Settles O28: each register write is one field of the state, and a pass-through byte is one entry of the list. -/
theorem plainWritesStoreTheByte : Obligations.PlainWritesStoreTheByte := by
  intro s v
  refine ⟨rfl, rfl, rfl, rfl, rfl, rfl, rfl, rfl, fun k hk => ⟨_, exec_wrPad hk v, rfl, ?_, fun j hj => ?_⟩⟩
  · exact List.getElem?_set_self hk
  · exact List.getElem?_set_ne hj.symm

end Sys2Proof.Machine
end

section
/-! The DATA accesses (R196, R197), one rule for each thing they can do. -/

namespace Sys2Proof.Machine

theorem exec_rdData_of_inactive {s : State} (hrd : s.rdActive = false) :
    exec .rdData s = .next { s with result := .byte s.data } := by
  show execRdData s = _
  simp only [execRdData, hrd, Bool.false_eq_true, if_false, answer_eq]

theorem exec_rdData_of_active {s : State} {v : Byte} (hrd : s.rdActive = true) (hbuf : s.buf[s.xferIdx]? = some v) :
    exec .rdData s = .next { s with
        data := v, xferIdx := s.xferIdx + 1, rdActive := !decide (s.xferIdx + 1 = s.xferLimit), result := .byte v } := by
  have hend : (if s.xferIdx + 1 = s.xferLimit then false else true) = !decide (s.xferIdx + 1 = s.xferLimit) := by
    split <;> simp [*]
  show execRdData s = _
  simp only [execRdData, hrd, hbuf, if_true, answer_eq, hend]

theorem exec_wrData_of_not_awaiting {s : State} (hphase : s.phase ≠ .awaitingData) (v : Byte) :
    exec (.wrData v) s = .next { s with data := v, result := .done } :=
  if_neg hphase

theorem exec_wrData_feeds {s : State} (hphase : s.phase = .awaitingData) (hidx : s.xferIdx < 511) (v : Byte) :
    exec (.wrData v) s = .next { feedByte v s with result := .done } := by
  have hlt : s.xferIdx < 512 := by omega
  have hlast : ¬s.xferIdx + 1 = 512 := by omega
  exact (if_pos hphase).trans ((if_pos hlt).trans (if_neg hlast))

theorem exec_wrData_commits {s : State} (hphase : s.phase = .awaitingData) (hidx : s.xferIdx = 511) (v : Byte) :
    exec (.wrData v) s = .next { commit (feedByte v s) with result := .done } := by
  have hlt : s.xferIdx < 512 := by omega
  have hlast : s.xferIdx + 1 = 512 := by omega
  exact (if_pos hphase).trans ((if_pos hlt).trans (if_pos hlast))

/-- Settles O29: the two modes of a DATA read. -/
theorem dataReadAdvancesTransfer : Obligations.DataReadAdvancesTransfer :=
  fun _ => ⟨exec_rdData_of_inactive, fun _ => exec_rdData_of_active⟩

/-- Settles O30: a DATA write outside the write data phase, and one before its last byte. -/
theorem dataWriteStoresAndFeeds : Obligations.DataWriteStoresAndFeeds :=
  fun _ v => ⟨fun hphase => exec_wrData_of_not_awaiting hphase v, fun hphase hidx => exec_wrData_feeds hphase hidx v⟩

end Sys2Proof.Machine
end

section
/-! COMMAND writes (R193, R222): the write of a byte, and the command the byte selects, are one operation. -/

namespace Sys2Proof.Machine

/-- The dispatch of `issue` and the decoder's choice of a command agree: both run one of the nine bodies. -/
theorem exists_body_of_command_byte (v : Byte) (s : State) :
    ∃ body, CommandBody body ∧ issue v s = body (accept v s) ∧ exec (decodeCommand s.cfg v) s = commandWrite v body s := by
  unfold issue decodeCommand
  split_ifs with hread hwrite hseek hstatus hformat hid hrecal hsense
  · exact ⟨_, .readSector, rfl, hread ▸ rfl⟩
  · exact ⟨_, .writeSector, rfl, hwrite ▸ rfl⟩
  · exact ⟨_, .seek, rfl, hseek ▸ rfl⟩
  · exact ⟨_, .readStatus, rfl, hstatus ▸ rfl⟩
  · exact ⟨_, .formatTrack, rfl, hformat ▸ rfl⟩
  · exact ⟨_, .readId, rfl, hid ▸ rfl⟩
  · exact ⟨_, .recalibrate, rfl, hrecal ▸ rfl⟩
  · exact ⟨_, .senseInterrupt, rfl, hsense ▸ rfl⟩
  · exact ⟨_, .invalid, rfl, rfl⟩

theorem exec_wrCommand_eq_command (v : Byte) (s : State) : exec (.wrCommand v) s = exec (decodeCommand s.cfg v) s := by
  obtain ⟨body, -, hissue, hexec⟩ := exists_body_of_command_byte v s
  rw [hexec]
  show execWrCommand v s = _
  rw [execWrCommand, hissue, commandWrite]

theorem commandWrite_of_idle {s : State} (hidle : isBusy s = false) (v : Byte) (body : State → State) :
    commandWrite v body s = .next { body (accept v s) with result := .done } :=
  if_neg (by simp [hidle])

theorem commandWrite_of_busy {s : State} (hbusy : isBusy s = true) (v : Byte) (body : State → State) :
    commandWrite v body s = .next { s with result := .done } :=
  if_pos hbusy

/-- No body writes COMMAND. -/
theorem CommandBody.command {body : State → State} (hbody : CommandBody body) (s : State) : (body s).command = s.command := by
  cases hbody with
  | readSector => rcases readSectorBody_cases s with ⟨_, -, he⟩ | ⟨_, _, _, -, -, -, he | he⟩ <;> rw [he] <;> rfl
  | formatTrack =>
    rcases formatTrackBody_cases s with ⟨-, he⟩ | ⟨_, _, -, -, -, he⟩ | ⟨_, _, _, -, -, -, he⟩ <;> rw [he] <;> simp
  | readId =>
    obtain ⟨_, -, he⟩ := readIdBody_cases s
    rw [he]
    rfl
  | writeSector | seek | readStatus | recalibrate | senseInterrupt | invalid => rfl

/-- Each operation of format CMD is a COMMAND write, dropped while BUSY (R193). -/
theorem exec_command_of_busy {s : State} {i : Instr} (hi : i.format = .cmd) (hbusy : isBusy s = true) :
    exec i s = .next { s with result := .done } := by
  cases i <;> cases hi
  all_goals exact commandWrite_of_busy hbusy _ _

/-- The operations encoded to a command byte are those of format CMD (R90). -/
theorem format_of_encode_cmd {p : Config.Params} {i : Instr} {v : Byte} (h : encode p i = .cmd v) : i.format = .cmd := by
  cases hf : i.format with
  | cmd => rfl
  | reg =>
    obtain ⟨t, a, rfl⟩ := exists_accessOp_of_reg hf
    rw [encode_accessOp] at h
    cases h
  | unit =>
    rw [encode_of_unit p hf] at h
    cases h

theorem commandByte_cases {p : Config.Params} {i : Instr} {v : Byte} (h : commandByte p i = some v) :
    i = .wrCommand v ∨ i.format = .cmd := by
  unfold commandByte at h
  split at h
  · cases h
    exact .inl rfl
  · split at h
    · next henc => exact .inr (format_of_encode_cmd henc)
    · cases h

/-- Settles O17: the byte's command is a COMMAND write of that byte, accepted or dropped whole. -/
theorem commandWriteRunsSelectedCommand : Obligations.CommandWriteRunsSelectedCommand := by
  refine ⟨fun s v => exec_wrCommand_eq_command v s, fun s v hidle => ?_, fun s i v hbusy hi => ?_⟩
  · obtain ⟨body, hbody, -, hexec⟩ := exists_body_of_command_byte v s
    rw [exec_wrCommand_eq_command, hexec]
    exact ⟨_, commandWrite_of_idle hidle v body, hbody.command (accept v s)⟩
  · rcases commandByte_cases hi with rfl | hcmd
    · rw [exec_wrCommand_eq_command]
      exact exec_command_of_busy (decodeCommand_format _ _) hbusy
    · exact exec_command_of_busy hcmd hbusy

end Sys2Proof.Machine
end

section
/-! Runs of operations, and the read transfer (R208 (a), (b)). -/

namespace Sys2Proof.Machine

/-! ## Runs -/

theorem execAll_cons {i : Instr} {is : List Instr} {s t : State} (h : exec i s = .next t) : execAll (i :: is) s = execAll is t := by
  simp only [execAll, h]

theorem execAll_singleton {i : Instr} {s t : State} (h : exec i s = .next t) : execAll [i] s = .next t :=
  execAll_cons h

theorem execAll_append {is : List Instr} {s t : State} (h : execAll is s = .next t) (js : List Instr) :
    execAll (is ++ js) s = execAll js t := by
  induction is generalizing s with
  | nil =>
    cases h
    rfl
  | cons i is ih =>
    cases hi : exec i s with
    | next u =>
      rw [execAll_cons hi] at h
      rw [List.cons_append, execAll_cons hi, ih h]
    | fault f => simp only [execAll, hi, reduceCtorEq] at h
    | refused r => simp only [execAll, hi, reduceCtorEq] at h

/-- What every operation of a run keeps, the run keeps. -/
theorem execAll_keeps {R : State → State → Prop} {is : List Instr} (hrefl : ∀ s, R s s)
    (htrans : ∀ {s t u}, R s t → R t u → R s u) (hkeep : ∀ i ∈ is, ∀ s t, exec i s = .next t → R s t) {s t : State}
    (h : execAll is s = .next t) : R s t := by
  induction is generalizing s with
  | nil =>
    cases h
    exact hrefl _
  | cons i is ih =>
    cases hi : exec i s with
    | next u =>
      rw [execAll_cons hi] at h
      exact htrans (hkeep i List.mem_cons_self s u hi) (ih (fun j hj => hkeep j (List.mem_cons_of_mem i hj)) h)
    | fault f => simp only [execAll, hi, reduceCtorEq] at h
    | refused r => simp only [execAll, hi, reduceCtorEq] at h

/-! ## The read transfer -/

/-- The two ways to say that byte `n` is not the last of a transfer. -/
theorem not_decide_succ_eq {n l : Nat} (h : n < l) : (!decide (n + 1 = l)) = decide (n + 1 < l) := by
  rw [← decide_not]
  exact decide_eq_decide.2 (by omega)

/-- The state after `n + 1` reads of a transfer: the last byte read is in DATA, and the transfer is enabled below its limit. -/
theorem execAll_rdData {s : State} (hrd : s.rdActive = true) (hidx : s.xferIdx = 0) (hbuf : s.xferLimit ≤ s.buf.length) {n : Nat}
    (hn : n < s.xferLimit) :
    execAll (List.replicate (n + 1) .rdData) s = .next { s with
        data := s.buf[n], xferIdx := n + 1, rdActive := decide (n + 1 < s.xferLimit), result := .byte s.buf[n] } := by
  induction n with
  | zero =>
    have hbyte : s.buf[s.xferIdx]? = some s.buf[0] := by simp [hidx]
    exact execAll_singleton (by rw [exec_rdData_of_active hrd hbyte, hidx, not_decide_succ_eq hn])
  | succ n ih =>
    rw [List.replicate_succ', execAll_append (ih (by omega))]
    refine execAll_singleton ?_
    rw [exec_rdData_of_active (v := s.buf[n + 1]) (decide_eq_true hn) (List.getElem?_eq_getElem _), not_decide_succ_eq hn]

/-- Settles O33: read by read, the next buffer byte is handed out. -/
theorem readTransferDeliversBuffer : Obligations.ReadTransferDeliversBuffer := by
  intro s n hrd hidx hlen hlimit hn
  exact ⟨_, s.buf[n], execAll_rdData hrd hidx (by omega) hn, List.getElem?_eq_getElem _, rfl⟩

end Sys2Proof.Machine
end

section
/-! The write data phase (R208 (c)): which fields a side access leaves, which a byte of the phase leaves, and that the 512 bytes
reach the commit whatever accesses stand between them. -/

namespace Sys2Proof.Machine

/-! ## What the accesses of the phase keep -/

theorem SameSlots.trans {s t u : State} (hst : SameSlots s t) (htu : SameSlots t u) : SameSlots s u :=
  ⟨htu.slotA.trans hst.slotA, htu.slotB.trans hst.slotB⟩

theorem SameSlots.slot {s t : State} (h : SameSlots s t) (e : Drive) : t.slot e = s.slot e := by
  cases e with
  | A => exact h.slotA
  | B => exact h.slotB

theorem SameSlots.slotOf {s t : State} (h : SameSlots s t) (d : Option Drive) : t.slotOf d = s.slotOf d := by
  cases d with
  | none => rfl
  | some e => exact h.slot e

theorem SameSlots.setSlot {s t : State} (h : SameSlots s t) (e : Drive) (x : Option Slot) :
    SameSlots (s.setSlot e x) (t.setSlot e x) := by
  cases e with
  | A => exact ⟨rfl, h.slotB⟩
  | B => exact ⟨h.slotA, rfl⟩

/-- What the commit finds, but for the buffer, is as before (R37, R39, R42); so is the number of pass-through bytes. -/
structure SameTarget (s t : State) : Prop extends SameSlots s t where
  cfg        : t.cfg = s.cfg
  padLength  : t.pad.length = s.pad.length
  wrDrive    : t.wrDrive = s.wrDrive
  wrTrack    : t.wrTrack = s.wrTrack
  wrSector   : t.wrSector = s.wrSector
  irqPending : t.irqPending = s.irqPending

theorem SameTarget.refl (s : State) : SameTarget s s := ⟨.refl s, rfl, rfl, rfl, rfl, rfl, rfl⟩

theorem SameTarget.trans {s t u : State} (hst : SameTarget s t) (htu : SameTarget t u) : SameTarget s u where
  toSameSlots := hst.toSameSlots.trans htu.toSameSlots
  cfg := htu.cfg.trans hst.cfg
  padLength := htu.padLength.trans hst.padLength
  wrDrive := htu.wrDrive.trans hst.wrDrive
  wrTrack := htu.wrTrack.trans hst.wrTrack
  wrSector := htu.wrSector.trans hst.wrSector
  irqPending := htu.irqPending.trans hst.irqPending

/-- The sequencer is as before too (R32 to R36), and the status byte. -/
structure Undisturbed (s t : State) : Prop extends SameTarget s t where
  phase    : t.phase = s.phase
  status   : t.status = s.status
  buf      : t.buf = s.buf
  xferIdx  : t.xferIdx = s.xferIdx
  rdActive : t.rdActive = s.rdActive

theorem Undisturbed.refl (s : State) : Undisturbed s s := ⟨.refl s, rfl, rfl, rfl, rfl, rfl⟩

theorem Undisturbed.trans {s t u : State} (hst : Undisturbed s t) (htu : Undisturbed t u) : Undisturbed s u where
  toSameTarget := hst.toSameTarget.trans htu.toSameTarget
  phase := htu.phase.trans hst.phase
  status := htu.status.trans hst.status
  buf := htu.buf.trans hst.buf
  xferIdx := htu.xferIdx.trans hst.xferIdx
  rdActive := htu.rdActive.trans hst.rdActive

/-- `Undisturbed` says nothing of DATA and the operand registers, which a side access may write. -/
theorem Undisturbed.of_eraseOperands_eq {s t : State} (h : t.eraseOperands = s.eraseOperands) : Undisturbed s t :=
  have field {α : Type} (f : State → α) : f t.eraseOperands = f s.eraseOperands := congrArg f h
  { slotA := field State.slotA, slotB := field State.slotB, cfg := field State.cfg, padLength := field (·.pad.length),
    wrDrive := field State.wrDrive, wrTrack := field State.wrTrack, wrSector := field State.wrSector,
    irqPending := field State.irqPending, phase := field State.phase, status := field State.status, buf := field State.buf,
    xferIdx := field State.xferIdx, rdActive := field State.rdActive }

theorem sameTarget_feedByte (v : Byte) (s : State) (r : Result) : SameTarget s { feedByte v s with result := r } :=
  ⟨⟨rfl, rfl⟩, rfl, rfl, rfl, rfl, rfl, rfl⟩

/-! ## Side accesses -/

theorem format_of_isSideAccess {i : Instr} (h : isSideAccess i = true) : i.format = .reg := by
  unfold isSideAccess at h
  split at h
  · cases h
  · cases h
  · exact of_decide_eq_true h

theorem dataWritten_of_isSideAccess {i : Instr} (h : isSideAccess i = true) : dataWritten i = none := by
  unfold dataWritten
  split
  · cases h
  · rfl

theorem filterMap_dataWritten_wrData (v : Byte) (is : List Instr) :
    (Instr.wrData v :: is).filterMap dataWritten = v :: is.filterMap dataWritten := rfl

/-- A side access that meets no read transfer and no missing byte is done, and disturbs nothing. -/
theorem exec_sideAccess {i : Instr} {s : State} (hside : isSideAccess i = true) (hwf : i.wf s.cfg = true)
    (hpad : s.pad.length = s.cfg.padBytes) (hrd : s.rdActive = false) : ∃ t, exec i s = .next t ∧ Undisturbed s t := by
  obtain ⟨target, a, rfl⟩ := exists_accessOp_of_reg (format_of_isSideAccess hside)
  have hexists := (wf_accessOp_iff _ _ _).1 hwf
  cases target with
  | inl r =>
    cases a with
    | rd =>
      by_cases hdata : r = .data
      · subst hdata
        exact ⟨_, exec_rdData_of_inactive hrd, .of_eraseOperands_eq rfl⟩
      · exact ⟨_, exec_readRegister hdata s, .of_eraseOperands_eq rfl⟩
    | wr v =>
      have hcommand : r ≠ .command := by rintro rfl; cases hside
      have hdata : r ≠ .data := by rintro rfl; cases hside
      obtain ⟨t, hexec, ht⟩ := exec_writeRegister_eraseOperands hcommand hdata s v
      exact ⟨t, hexec, .of_eraseOperands_eq ht⟩
  | inr k =>
    have hk : k < s.pad.length := hpad ▸ hexists k rfl
    cases a with
    | rd => exact ⟨_, exec_rdPad (List.getElem?_eq_getElem hk), .of_eraseOperands_eq rfl⟩
    | wr v => exact ⟨_, exec_wrPad hk v, { Undisturbed.refl s with padLength := List.length_set }⟩

/-- What may stand in a write data phase (R208 (c)): a DATA write, or a side access to a byte that exists. -/
inductive PhaseAccess (s : State) : Instr → Prop where
  | write (v : Byte) : PhaseAccess s (.wrData v)
  | side {i : Instr} (hside : isSideAccess i = true) (hwf : i.wf s.cfg = true) (hpad : s.pad.length = s.cfg.padBytes) :
      PhaseAccess s i

theorem PhaseAccess.congr {s t : State} {i : Instr} (h : PhaseAccess s i) (hcfg : t.cfg = s.cfg)
    (hpadLength : t.pad.length = s.pad.length) : PhaseAccess t i := by
  cases h with
  | write v => exact .write v
  | side hside hwf hpad => exact .side hside (by rwa [hcfg]) (by rwa [hpadLength, hcfg])

/-- With no DATA write among them, the accesses disturb nothing. -/
theorem execAll_sideAccesses {is : List Instr} {s : State} (hacc : ∀ i ∈ is, PhaseAccess s i) (hnone : is.filterMap dataWritten = [])
    (hrd : s.rdActive = false) : ∃ t, execAll is s = .next t ∧ Undisturbed s t := by
  induction is generalizing s with
  | nil => exact ⟨s, rfl, .refl s⟩
  | cons i is ih =>
    obtain ⟨hi, his⟩ := List.forall_mem_cons.1 hacc
    cases hi with
    | write v => simp [dataWritten] at hnone
    | side hside hwf hpad =>
      rw [List.filterMap_cons_none (dataWritten_of_isSideAccess hside)] at hnone
      obtain ⟨s', hexec, hs'⟩ := exec_sideAccess hside hwf hpad hrd
      obtain ⟨t, hrun, ht⟩ := ih (fun j hj => (his j hj).congr hs'.cfg hs'.padLength) hnone (hs'.rdActive.trans hrd)
      exact ⟨t, (execAll_cons hexec).trans hrun, hs'.trans ht⟩

/-! ## The commit -/

/-- Which fields a commit can write (R223, R227). -/
theorem commit_eq (s : State) : ∃ status irq a b,
    commit s = { s with status := status, phase := .idle, irqPending := irq, slotA := a, slotB := b } := by
  rcases commit_cases s with ⟨-, he⟩ | ⟨_, _, -, -, -, he⟩ | ⟨e, _, _, -, -, -, he⟩
  · exact ⟨_, _, _, _, he⟩
  · exact ⟨_, _, _, _, he⟩
  · cases e <;> exact ⟨_, _, _, _, he⟩

@[simp] theorem commit_phase (s : State) : (commit s).phase = .idle := by
  obtain ⟨_, _, _, _, he⟩ := commit_eq s
  rw [he]

@[simp] theorem commit_buf (s : State) : (commit s).buf = s.buf := by
  obtain ⟨_, _, _, _, he⟩ := commit_eq s
  rw [he]

@[simp] theorem commit_xferIdx (s : State) : (commit s).xferIdx = s.xferIdx := by
  obtain ⟨_, _, _, _, he⟩ := commit_eq s
  rw [he]

@[simp] theorem commit_rdActive (s : State) : (commit s).rdActive = s.rdActive := by
  obtain ⟨_, _, _, _, he⟩ := commit_eq s
  rw [he]

@[simp] theorem commit_cfg (s : State) : (commit s).cfg = s.cfg := (commit_params s).1

@[simp] theorem commit_pad (s : State) : (commit s).pad = s.pad := by
  obtain ⟨_, _, _, _, he⟩ := commit_eq s
  rw [he]

theorem commit_of_error {s : State} {f : UnitFailure}
    (h : arbWrite s (driveOf s.cfg s.wrDrive) s.wrTrack.toNat s.wrSector.toNat s.buf = .error f) :
    commit s = complete (failCode f) s := by
  simp only [commit, h]

theorem commit_of_ok {s u : State} (h : arbWrite s (driveOf s.cfg s.wrDrive) s.wrTrack.toNat s.wrSector.toNat s.buf = .ok u) :
    commit s = complete .ok u := by
  simp only [commit, h]

theorem failCode_ne_ok (f : UnitFailure) : failCode f ≠ .ok := by
  cases f <;> decide

/-- ARB.WRITE looks at the slots and the parameters only, and leaves slots made of them. -/
theorem arbWrite_of_sameSlots {s s' : State} (hslots : SameSlots s s') (hcfg : s'.cfg = s.cfg) (d : Option Drive) (t n : Nat)
    (data : List Byte) :
    (∃ f, arbWrite s d t n data = .error f ∧ arbWrite s' d t n data = .error f)
      ∨ ∃ u u', arbWrite s d t n data = .ok u ∧ arbWrite s' d t n data = .ok u' ∧ SameSlots u u' := by
  rcases arbWrite_cases s d t n data with ⟨hd, he⟩ | ⟨e, sl, rfl, hsl, hloc, he⟩ | ⟨e, sl, off, rfl, hsl, hloc, he⟩
  · exact .inl ⟨_, he, arbWrite_of_not_ready ((hslots.slotOf d).trans hd) t n data⟩
  · refine .inl ⟨_, he, ?_⟩
    rw [arbWrite_of_mounted ((hslots.slot e).trans hsl), hcfg, hloc]
    rfl
  · refine .inr ⟨_, _, he, ?_, hslots.setSlot e (some ⟨sl.img.write off data, true⟩)⟩
    rw [arbWrite_of_mounted ((hslots.slot e).trans hsl), hcfg, hloc]
    rfl

/-- The commit of a buffer that reached the target latched in `s`. -/
theorem commit_of_sameTarget {s u : State} {b : List Byte} (hu : SameTarget s u) (hbuf : u.buf = b) :
    (∃ f, arbWrite s (driveOf s.cfg s.wrDrive) s.wrTrack.toNat s.wrSector.toNat b = .error f
        ∧ commit u = complete (failCode f) u)
      ∨ ∃ w w', arbWrite s (driveOf s.cfg s.wrDrive) s.wrTrack.toNat s.wrSector.toNat b = .ok w
        ∧ commit u = complete .ok w' ∧ SameSlots w w' := by
  have hargs : arbWrite u (driveOf u.cfg u.wrDrive) u.wrTrack.toNat u.wrSector.toNat u.buf
      = arbWrite u (driveOf s.cfg s.wrDrive) s.wrTrack.toNat s.wrSector.toNat b := by
    rw [hu.cfg, hu.wrDrive, hu.wrTrack, hu.wrSector, hbuf]
  rcases arbWrite_of_sameSlots hu.toSameSlots hu.cfg (driveOf s.cfg s.wrDrive) s.wrTrack.toNat s.wrSector.toNat b with
    ⟨f, hs, hf⟩ | ⟨w, w', hs, hw', hslots⟩
  · exact .inl ⟨f, hs, commit_of_error (hargs.trans hf)⟩
  · exact .inr ⟨w, w', hs, commit_of_ok (hargs.trans hw'), hslots⟩

/-! ## The phase -/

/-- The block is in the write data phase, with a byte still to come (R44 (b)). -/
structure Receiving (s : State) : Prop where
  phase     : s.phase = .awaitingData
  rdActive  : s.rdActive = false
  idxLt     : s.xferIdx < 512
  bufLength : s.buf.length = 512

theorem Receiving.of_undisturbed {s t : State} (hs : Receiving s) (h : Undisturbed s t) : Receiving t where
  phase := h.phase.trans hs.phase
  rdActive := h.rdActive.trans hs.rdActive
  idxLt := h.xferIdx ▸ hs.idxLt
  bufLength := h.buf ▸ hs.bufLength

theorem Receiving.feedByte {s : State} (hs : Receiving s) (hidx : s.xferIdx < 511) (v : Byte) :
    Receiving { feedByte v s with result := .done } where
  phase := hs.phase
  rdActive := hs.rdActive
  idxLt := by show s.xferIdx + 1 < 512; omega
  bufLength := List.length_set.trans hs.bufLength

/-- The byte of a feed follows the bytes received before it. -/
theorem Receiving.take_feedByte {s : State} (hs : Receiving s) (v : Byte) :
    (Machine.feedByte v s).buf.take (s.xferIdx + 1) = s.buf.take s.xferIdx ++ [v] := by
  have hlt : s.xferIdx < s.buf.length := hs.bufLength ▸ hs.idxLt
  rw [feedByte_buf, List.take_add_one, List.take_set_of_le (Nat.le_refl _), List.getElem?_set_self hlt]
  rfl

/-- R208 (c): the accesses run to the commit of a state `u` that has the target latched at issue and, in its buffer, the bytes
received before followed by the bytes written; the accesses after the commit disturb nothing. -/
theorem execAll_writePhase {is : List Instr} {s : State} (hs : Receiving s) (hacc : ∀ i ∈ is, PhaseAccess s i)
    (hcount : s.xferIdx + (is.filterMap dataWritten).length = 512) :
    ∃ u t, execAll is s = .next t ∧ SameTarget s u ∧ u.buf = s.buf.take s.xferIdx ++ is.filterMap dataWritten ∧ u.xferIdx = 512
      ∧ Undisturbed (commit u) t := by
  induction is generalizing s with
  | nil => exact absurd hcount (Nat.ne_of_lt hs.idxLt)
  | cons i is ih =>
    obtain ⟨hi, his⟩ := List.forall_mem_cons.1 hacc
    cases hi with
    | side hside hwf hpad =>
      rw [List.filterMap_cons_none (dataWritten_of_isSideAccess hside)] at hcount ⊢
      obtain ⟨s', hexec, hs'⟩ := exec_sideAccess hside hwf hpad hs.rdActive
      obtain ⟨u, t, hrun, hu, hbuf, hidx, ht⟩ :=
        ih (hs.of_undisturbed hs') (fun j hj => (his j hj).congr hs'.cfg hs'.padLength) (hs'.xferIdx ▸ hcount)
      rw [hs'.buf, hs'.xferIdx] at hbuf
      exact ⟨u, t, (execAll_cons hexec).trans hrun, hs'.toSameTarget.trans hu, hbuf, hidx, ht⟩
    | write v =>
      rw [filterMap_dataWritten_wrData, List.length_cons] at hcount
      rw [filterMap_dataWritten_wrData]
      by_cases hidx : s.xferIdx < 511
      · obtain ⟨u, t, hrun, hu, hbuf, huidx, ht⟩ :=
          ih (hs.feedByte hidx v) (fun j hj => (his j hj).congr rfl rfl) (by simp only [feedByte_xferIdx]; omega)
        refine ⟨u, t, (execAll_cons (exec_wrData_feeds hs.phase hidx v)).trans hrun, (sameTarget_feedByte v s .done).trans hu, ?_,
          huidx, ht⟩
        simpa only [feedByte_xferIdx, hs.take_feedByte, List.append_assoc, List.singleton_append] using hbuf
      · have hlast : s.xferIdx = 511 := by have := hs.idxLt; omega
        have hnone : is.filterMap dataWritten = [] := List.eq_nil_of_length_eq_zero (by omega)
        have hbuf : (feedByte v s).buf = s.buf.take s.xferIdx ++ [v] := by
          rw [← hs.take_feedByte, List.take_of_length_le]
          simp [hs.bufLength, hlast]
        obtain ⟨t, hrun, ht⟩ := execAll_sideAccesses (s := { commit (feedByte v s) with result := .done }) (is := is)
          (fun j hj => (his j hj).congr (by simp) (by simp)) hnone (by simp [hs.rdActive])
        refine ⟨feedByte v s, t, (execAll_cons (exec_wrData_commits hs.phase hlast v)).trans hrun, ?_, ?_, ?_, ?_⟩
        · exact sameTarget_feedByte v s s.result
        · rw [hnone, hbuf]
        · rw [feedByte_xferIdx, hlast]
        · have hdone : Undisturbed (commit (feedByte v s)) { commit (feedByte v s) with result := .done } :=
            .of_eraseOperands_eq rfl
          exact hdone.trans ht

/-- Settles O34: the accesses run to the commit, which finds the slots and the target as they were at the start. -/
theorem writeDataPhaseCommitsItsBytes : Obligations.WriteDataPhaseCommitsItsBytes := by
  intro s is b hphase hrd hidx hlen hpad hwf hacc hb hblen
  have hacc' (i : Instr) (hi : i ∈ is) : PhaseAccess s i := by
    rcases hacc i hi with hside | ⟨v, rfl⟩
    · exact .side hside (hwf i hi) hpad
    · exact .write v
  obtain ⟨u, t, hrun, hu, hbuf, huidx, ht⟩ :=
    execAll_writePhase ⟨hphase, hrd, by omega, hlen⟩ hacc' (by rw [hb, hidx, hblen])
  rw [hidx, hb, List.take_zero, List.nil_append] at hbuf
  refine ⟨t, hrun, ht.phase.trans (commit_phase u), ht.buf.trans ((commit_buf u).trans hbuf),
    ht.xferIdx.trans ((commit_xferIdx u).trans huidx), ?_⟩
  rcases commit_of_sameTarget hu hbuf with ⟨f, hwrite, hcommit⟩ | ⟨w, w', hwrite, hcommit, hslots⟩
  · rw [hcommit] at ht
    rw [hwrite]
    refine ⟨?_, by rintro _ ⟨⟩⟩
    rintro _ ⟨⟩
    refine ⟨ht.status, ?_, ht.slotA.trans hu.slotA, ht.slotB.trans hu.slotB⟩
    rw [ht.irqPending, complete_irqPending, if_neg (failCode_ne_ok f), hu.irqPending]
  · rw [hcommit] at ht
    rw [hwrite]
    refine ⟨by rintro _ ⟨⟩, ?_⟩
    rintro _ ⟨⟩
    exact ⟨ht.status, ht.irqPending, ht.slotA.trans hslots.slotA, ht.slotB.trans hslots.slotB⟩

end Sys2Proof.Machine
end

section
/-! The round trip of R208 (d): the whole of WRITE_SECTOR through the registers, then the whole of READ_SECTOR. -/

namespace Sys2Proof.Machine

/-! ## What a DATA write leaves of the operands -/

/-- The operands of a command (R25 to R29) and the parameters are as before. -/
structure SameOperands (s t : State) : Prop where
  driveSelect : t.driveSelect = s.driveSelect
  track       : t.track = s.track
  sector      : t.sector = s.sector
  dmaCount    : t.dmaCount = s.dmaCount
  cfg         : t.cfg = s.cfg

theorem SameOperands.refl (s : State) : SameOperands s s := ⟨rfl, rfl, rfl, rfl, rfl⟩

theorem SameOperands.trans {s t u : State} (hst : SameOperands s t) (htu : SameOperands t u) : SameOperands s u :=
  ⟨htu.driveSelect.trans hst.driveSelect, htu.track.trans hst.track, htu.sector.trans hst.sector,
    htu.dmaCount.trans hst.dmaCount, htu.cfg.trans hst.cfg⟩

theorem commit_sameOperands (s : State) : SameOperands s (commit s) := by
  obtain ⟨_, _, _, _, he⟩ := commit_eq s
  rw [he]
  exact ⟨rfl, rfl, rfl, rfl, rfl⟩

theorem sameOperands_of_wrData {s t : State} {v : Byte} (h : exec (.wrData v) s = .next t) : SameOperands s t := by
  change execWrData v s = _ at h
  unfold execWrData at h
  split at h
  · split at h
    · split at h
      · cases h
        have hc := commit_sameOperands (feedByte v s)
        exact ⟨hc.driveSelect, hc.track, hc.sector, hc.dmaCount, hc.cfg⟩
      · cases h
        exact ⟨rfl, rfl, rfl, rfl, rfl⟩
    · cases h
  · cases h
    exact ⟨rfl, rfl, rfl, rfl, rfl⟩

theorem sameOperands_of_wrDatas {s t : State} {b : List Byte} (h : execAll (b.map .wrData) s = .next t) : SameOperands s t := by
  refine execAll_keeps SameOperands.refl SameOperands.trans (fun i hi _ _ hexec => ?_) h
  obtain ⟨v, -, rfl⟩ := List.mem_map.1 hi
  exact sameOperands_of_wrData hexec

/-! ## The two commands -/

theorem filterMap_dataWritten_map_wrData (b : List Byte) : (b.map Instr.wrData).filterMap dataWritten = b := by
  rw [List.filterMap_map]
  exact List.filterMap_some

/-- The write data phase as WRITE_SECTOR enters it (R226). -/
def afterWriteSector (s : State) : State := { writeSectorBody (accept s.cfg.opc.writeSector s) with result := .done }

theorem exec_writeSector_of_idle {s : State} (hidle : isBusy s = false) : exec .writeSector s = .next (afterWriteSector s) :=
  commandWrite_of_idle hidle _ _

theorem sameSlots_afterWriteSector (s : State) : SameSlots s (afterWriteSector s) := ⟨rfl, rfl⟩

theorem sameOperands_afterWriteSector (s : State) : SameOperands s (afterWriteSector s) := ⟨rfl, rfl, rfl, rfl, rfl⟩

theorem receiving_afterWriteSector {s : State} (hlen : s.buf.length = 512) : Receiving (afterWriteSector s) where
  phase := rfl
  rdActive := rfl
  idxLt := Nat.zero_lt_succ 511
  bufLength := hlen

/-- WRITE_SECTOR and its 512 bytes leave the bytes on the addressed sector, a successful status and the operands as they were. -/
theorem execAll_writeSector {s : State} {b : List Byte} {e : Drive} {sl : Slot} {off : Nat} (hidle : isBusy s = false)
    (hlen : s.buf.length = 512) (hb : b.length = 512) (hdrive : driveOf s.cfg s.driveSelect = some e) (hsl : s.slot e = some sl)
    (hloc : locateIn s.cfg sl.img s.track.toNat s.sector.toNat = .ok off) :
    ∃ t, execAll (.writeSector :: b.map .wrData) s = .next t ∧ t.status = 0x00#8 ∧ SameOperands s t
      ∧ t.slot e = some ⟨sl.img.write off b, true⟩ := by
  have hacc (i : Instr) (hi : i ∈ b.map .wrData) : PhaseAccess (afterWriteSector s) i := by
    obtain ⟨v, -, rfl⟩ := List.mem_map.1 hi
    exact .write v
  obtain ⟨u, t, hrun, hu, hbuf, -, ht⟩ := execAll_writePhase (receiving_afterWriteSector hlen) hacc
    (by rw [filterMap_dataWritten_map_wrData, hb]; rfl)
  have hbuf' : u.buf = b := hbuf.trans (filterMap_dataWritten_map_wrData b)
  have hwritten : arbWrite (afterWriteSector s) (driveOf s.cfg s.driveSelect) s.track.toNat s.sector.toNat b
      = .ok ((afterWriteSector s).setSlot e (some ⟨sl.img.write off b, true⟩)) := by
    have hmounted : (afterWriteSector s).slot e = some sl := ((sameSlots_afterWriteSector s).slot e).trans hsl
    rw [hdrive, arbWrite_of_mounted hmounted, (sameOperands_afterWriteSector s).cfg, hloc]
    rfl
  rcases commit_of_sameTarget hu hbuf' with ⟨f, hwrite, -⟩ | ⟨w, w', hwrite, hcommit, hslots⟩
  · cases hwritten.symm.trans hwrite
  · cases hwritten.symm.trans hwrite
    rw [hcommit] at ht
    refine ⟨t, (execAll_cons (exec_writeSector_of_idle hidle)).trans hrun, ht.status,
      (sameOperands_afterWriteSector s).trans (sameOperands_of_wrDatas hrun), ?_⟩
    rw [ht.toSameSlots.slot e, complete_slot, hslots.slot e, setSlot_slot_same]

/-- READ_SECTOR of a mounted sector whose CRC is not checked, or verifies (R225). -/
theorem readSectorBody_of_ok {s : State} {sl : Slot} {off : Nat} (hsl : s.slotOf (driveOf s.cfg s.driveSelect) = some sl)
    (hloc : locateIn s.cfg sl.img s.track.toNat s.sector.toNat = .ok off)
    (hcrc : s.cfg.crcCheckOnRead = false ∨ crcVerify s.cfg (sl.img.slice off 512) = true) :
    readSectorBody s = complete .ok { s with
        crcErr := false, buf := sl.img.slice off 512, xferIdx := 0, xferLimit := limit s.cfg s.dmaCount, rdActive := true } := by
  have hcheck : ¬(s.cfg.crcCheckOnRead = true ∧ crcVerify s.cfg (sl.img.slice off 512) = false) := by
    rcases hcrc with h | h <;> simp [h]
  rw [readSectorBody, arbRead_of_mounted hsl, hloc]
  exact if_neg hcheck

/-- The read transfer that READ_SECTOR starts has the sector in its buffer and the length of R204. -/
theorem exec_readSector_of_ok {s : State} {sl : Slot} {off : Nat} (hidle : isBusy s = false)
    (hsl : s.slotOf (driveOf s.cfg s.driveSelect) = some sl)
    (hloc : locateIn s.cfg sl.img s.track.toNat s.sector.toNat = .ok off)
    (hcrc : s.cfg.crcCheckOnRead = false ∨ crcVerify s.cfg (sl.img.slice off 512) = true) :
    ∃ t, exec .readSector s = .next t ∧ t.rdActive = true ∧ t.xferIdx = 0 ∧ t.buf = sl.img.slice off 512
      ∧ t.xferLimit = limit s.cfg s.dmaCount ∧ t.status = 0x00#8 := by
  have hbody := readSectorBody_of_ok (s := accept s.cfg.opc.readSector s) ((accept_slotOf _ _ _).trans hsl) hloc hcrc
  refine ⟨_, commandWrite_of_idle hidle _ _, ?_⟩
  rw [hbody]
  exact ⟨rfl, rfl, rfl, rfl, rfl⟩

/-- No BUSY bit is set in the code of a success (R104). -/
theorem isBusy_of_status_zero {s : State} (h : s.status = 0x00#8) : isBusy s = false := by
  simp [isBusy, h]

/-- Settles O35: the write leaves the bytes on the sector from which the read takes them, and the reads of O33 hand them out. -/
theorem registerProtocolRoundTrip : Obligations.RegisterProtocolRoundTrip := by
  intro s b e sl k hvalid hidle hlen hb hcrc hdrive hsl haddr hk
  have hloc := locateIn_of_validOn haddr s.cfg
  obtain ⟨t, hwrite, hstatus, ht, hslot⟩ := execAll_writeSector hidle hlen hb hdrive hsl hloc
  have hslice : (sl.img.write (offsetOn s.cfg sl.img s.track.toNat s.sector.toNat) b).slice
      (offsetOn s.cfg sl.img s.track.toNat s.sector.toNat) 512 = b := hb ▸ ByteSeq.slice_write sl.img _ b
  obtain ⟨u, hread, hrd, hidx, hbuf, hlimit, hok⟩ := exec_readSector_of_ok (isBusy_of_status_zero hstatus)
    (by rw [ht.cfg, ht.driveSelect, hdrive, slotOf_some, hslot])
    (by rw [ht.cfg, ht.track, ht.sector, locateIn_write, hloc]) (by rwa [ht.cfg, hslice])
  rw [hslice] at hbuf
  rw [ht.cfg, ht.dmaCount] at hlimit
  obtain ⟨-, hmax⟩ := limit_range hvalid s.dmaCount
  obtain ⟨w, v, hreads, hv, hw⟩ :=
    readTransferDeliversBuffer u k hrd hidx (hbuf ▸ hb) (hlimit ▸ hmax) (hlimit ▸ hk)
  have hrun : execAll ((.writeSector :: b.map .wrData) ++ .readSector :: List.replicate (k + 1) .rdData) s = .next w :=
    (execAll_append hwrite _).trans ((execAll_cons hread).trans hreads)
  refine ⟨w, v, hrun, hbuf ▸ hv, ?_, ?_⟩
  · rw [hw]
  · rw [hw, hok]

end Sys2Proof.Machine
end

section
/-! The commands (R225 to R238) and the commit of a write (R227): completion, the bits of STATUS and of the drive status byte, and
each command's outcomes on an idle block. -/

namespace Sys2Proof.Machine

/-! ## Completion -/

/-- R223: success sets the interrupt flag, an error code leaves it. -/
theorem complete_eq (c : StatusCode) (s : State) :
    complete c s = { s with status := c.toByte, phase := .idle, irqPending := decide (c = .ok) || s.irqPending } := by
  cases c <;> rfl

/-- R101 keeps BUSY where every code has a clear bit. -/
theorem isBusy_of_isCode {s : State} (hvalid : s.cfg.valid = true) (hcode : isCode s.status) : isBusy s = false := by
  obtain ⟨-, -, hlow, -⟩ := (params_valid_iff s.cfg).1 hvalid
  exact hcode.getLsbD_low hlow

/-- Settles O16: the codes are those of the table, and their low bits, where BUSY lies, are clear. -/
theorem completionWritesCodeAndClearsBusy : Obligations.CompletionWritesCodeAndClearsBusy :=
  ⟨⟨rfl, rfl, rfl, rfl, rfl, rfl⟩, fun c s hvalid => ⟨isBusy_of_isCode (s := complete c s) hvalid (isCode_toByte c), complete_eq c s⟩⟩

theorem exec_fire {s : State} {p : Pending} (hphase : s.phase = .seekPending) (hpend : s.pend = some p) :
    exec .fire s = .next { complete p.code { s with seekDone := true, pend := none } with result := .done } := by
  show execFire s = _
  simp only [execFire, hphase, hpend, answer_eq]

/-- Settles O21: FIRE is the completion with the pending code. -/
theorem fireCompletesPending : Obligations.FireCompletesPending := by
  intro s p hphase hpend
  rw [exec_fire hphase hpend, complete_eq]

/-! ## Single bits -/

theorem bitMask_getLsbD (i k : Fin 8) : (bitMask i).getLsbD k.val = decide (k = i) := by
  revert i k; decide

theorem bitIf_getLsbD (c : Bool) (i k : Fin 8) : (bitIf c i).getLsbD k.val = (decide (k = i) && c) := by
  cases c
  · simp [bitIf]
  · rw [Bool.and_true]
    exact bitMask_getLsbD i k

/-- R222: BUSY alone. -/
theorem busyByte_getLsbD_iff (p : Config.Params) (k : Fin 8) : (busyByte p).getLsbD k.val = true ↔ k = p.stbit.busy := by
  rw [busyByte, bitMask_getLsbD, decide_eq_true_iff]

/-- R226: the flags of the write data phase. -/
theorem awaitByte_getLsbD_iff (p : Config.Params) (k : Fin 8) :
    (awaitByte p).getLsbD k.val = true
      ↔ k = p.stbit.busy ∨ k = p.stbit.dataRequest ∨ (k = p.stbit.dataDirection ∧ p.awaitDir = true) := by
  simp only [awaitByte, BitVec.getLsbD_or, bitMask_getLsbD, bitIf_getLsbD, Bool.or_eq_true, Bool.and_eq_true, decide_eq_true_eq,
    or_assoc]

/-- R162: a drive operand is ready exactly if it names a drive that holds a disk. -/
theorem slotOf_isSome_iff (s : State) (d : Option Drive) : (s.slotOf d).isSome = true ↔ ∃ e, d = some e ∧ s.slot e ≠ none := by
  cases d with
  | none => simp
  | some e => simp [Option.isSome_iff_ne_none]

/-- R102, R231: the four flags of the drive status byte; the others are clear. -/
theorem driveStatus_getLsbD_iff (s : State) (k : Fin 8) :
    (driveStatus s).getLsbD k.val = true
      ↔ (k = s.cfg.stbit.track0 ∧ s.track = 0x00#8) ∨ (k = s.cfg.stbit.seekComplete ∧ s.seekDone = true)
        ∨ (k = s.cfg.stbit.crcError ∧ s.crcErr = true)
        ∨ (k = s.cfg.stbit.driveReady ∧ ∃ e, driveOf s.cfg s.driveSelect = some e ∧ s.slot e ≠ none) := by
  simp only [driveStatus, BitVec.getLsbD_or, bitIf_getLsbD, Bool.or_eq_true, Bool.and_eq_true, decide_eq_true_eq,
    slotOf_isSome_iff, or_assoc]

/-! ## The commands without an address -/

/-- Settles O19: the operands are latched unseen, and `st` is the byte of the write data phase. -/
theorem writeSectorEntersDataPhase : Obligations.WriteSectorEntersDataPhase :=
  fun s hidle => ⟨_, exec_writeSector_of_idle hidle, rfl, awaitByte_getLsbD_iff s.cfg⟩

/-- Settles O20: both bodies leave the `st` of the acceptance. -/
theorem deferredCommandsSchedule : Obligations.DeferredCommandsSchedule := by
  intro s hidle
  have hbits := busyByte_getLsbD_iff s.cfg
  exact ⟨⟨_, commandWrite_of_idle hidle _ seekBody, rfl, hbits⟩, ⟨_, commandWrite_of_idle hidle _ recalibrateBody, rfl, hbits⟩⟩

/-- Settles O22: the acceptance writes no register the drive status byte looks at. -/
theorem readStatusDeliversDriveStatus : Obligations.ReadStatusDeliversDriveStatus :=
  fun s hidle => ⟨_, commandWrite_of_idle hidle _ readStatusBody, rfl, driveStatus_getLsbD_iff s⟩

theorem exec_senseInterrupt_of_idle {s : State} (hidle : isBusy s = false) :
    exec .senseInterrupt s = .next { s with
        command := s.cfg.opc.senseInterrupt, rdActive := false, data := irqByte s.irqPending, irqPending := false,
        status := 0x00#8, phase := .idle, result := .done } :=
  commandWrite_of_idle hidle _ senseInterruptBody

/-- Settles O25: the first one leaves the block idle with the flag clear, which is what the second one reports. -/
theorem senseInterruptReportsAndClears : Obligations.SenseInterruptReportsAndClears := by
  intro s hidle
  refine ⟨exec_senseInterrupt_of_idle hidle, fun t u ht hu => ?_⟩
  rw [exec_senseInterrupt_of_idle hidle] at ht
  cases ht
  rw [exec_senseInterrupt_of_idle (isBusy_of_status_zero rfl)] at hu
  cases hu
  rfl

/-- Settles O26: the body is a completion with 0x80, and the decoder finds no row for the byte. -/
theorem unknownCommandCompletesInvalid : Obligations.UnknownCommandCompletesInvalid := by
  intro s v hidle hv
  refine ⟨commandWrite_of_idle hidle v invalidBody, ?_⟩
  rw [exec_wrCommand_eq_command, (decodeCommand_eq_invalid_iff s.cfg v).2 hv]

/-! ## READ_SECTOR -/

theorem exec_readSector_of_idle {s : State} (hidle : isBusy s = false) :
    exec .readSector s = .next { readSectorBody (accept s.cfg.opc.readSector s) with result := .done } :=
  commandWrite_of_idle hidle _ _

theorem readSectorBody_of_error {s : State} {f : UnitFailure}
    (h : arbRead s (driveOf s.cfg s.driveSelect) s.track.toNat s.sector.toNat = .error f) :
    readSectorBody s = complete (failCode f) { s with crcErr := false } := by
  simp only [readSectorBody, h]

/-- R225: a sector whose check fails is in the buffer all the same. -/
theorem readSectorBody_of_bad_crc {s : State} {sl : Slot} {off : Nat}
    (hsl : s.slotOf (driveOf s.cfg s.driveSelect) = some sl)
    (hloc : locateIn s.cfg sl.img s.track.toNat s.sector.toNat = .ok off) (hcheck : s.cfg.crcCheckOnRead = true)
    (hcrc : crcVerify s.cfg (sl.img.slice off 512) = false) :
    readSectorBody s = complete .crcErr { s with crcErr := true, buf := sl.img.slice off 512 } := by
  rw [readSectorBody, arbRead_of_mounted hsl, hloc]
  exact if_pos ⟨hcheck, hcrc⟩

/-- Settles O18: readiness, then the address, then the check of the sector; the accepted state has the operands of `s`. -/
theorem readSectorOutcomes : Obligations.ReadSectorOutcomes := by
  intro s hidle
  rw [exec_readSector_of_idle hidle]
  have hslotOf (d : Option Drive) := accept_slotOf s.cfg.opc.readSector s d
  refine ⟨fun hnone => ?_, fun sl hsl => ⟨fun herr => ?_, fun off hloc => ⟨fun hcrc => ?_, fun hcheck hcrc => ?_⟩⟩⟩
  · rw [readSectorBody_of_error (arbRead_of_not_ready ((hslotOf _).trans hnone) _ _)]
    rfl
  · have hread : arbRead (accept s.cfg.opc.readSector s) (driveOf s.cfg s.driveSelect) s.track.toNat s.sector.toNat
        = .error .outOfBounds := by
      rw [arbRead_of_mounted ((hslotOf _).trans hsl), accept_cfg, herr]
      rfl
    rw [readSectorBody_of_error hread]
    rfl
  · rw [readSectorBody_of_ok ((hslotOf _).trans hsl) hloc hcrc]
    rfl
  · rw [readSectorBody_of_bad_crc ((hslotOf _).trans hsl) hloc hcheck hcrc]
    rfl

/-! ## READ_ID -/

theorem exec_readId_of_idle {s : State} (hidle : isBusy s = false) :
    exec .readId s = .next { readIdBody (accept s.cfg.opc.readId s) with result := .done } :=
  commandWrite_of_idle hidle _ _

theorem readIdBody_of_error {s : State} {f : UnitFailure}
    (h : locate s (driveOf s.cfg s.driveSelect) s.track.toNat s.sector.toNat = .error f) :
    readIdBody s = complete (failCode f) s := by
  simp only [readIdBody, h]

theorem readIdBody_of_ok {s : State} {off : Nat}
    (h : locate s (driveOf s.cfg s.driveSelect) s.track.toNat s.sector.toNat = .ok off) : readIdBody s = complete .ok s := by
  simp only [readIdBody, h]

/-- Settles O24: READ_ID's completion is that of the address resolution (R163). -/
theorem readIdProbesAddress : Obligations.ReadIdProbesAddress := by
  intro s hidle
  rw [exec_readId_of_idle hidle]
  have hslotOf (d : Option Drive) := accept_slotOf s.cfg.opc.readId s d
  refine ⟨fun hnone => ?_, fun sl hsl => ?_⟩
  · rw [readIdBody_of_error (locate_of_not_ready ((hslotOf _).trans hnone) _ _)]
    rfl
  · have hlocate := locate_of_mounted ((hslotOf _).trans hsl) s.track.toNat s.sector.toNat
    refine ⟨fun hvalid => ?_, fun hvalid => ?_⟩
    · rw [readIdBody_of_ok (hlocate.trans (locateIn_of_validOn hvalid _))]
      rfl
    · rw [readIdBody_of_error (hlocate.trans (locateIn_of_not_validOn hvalid _))]
      rfl

/-! ## FORMAT_TRACK -/

/-- A state with the slots of `s` after an image of `s` was stored: image memory differs only where the image does. -/
theorem sameImagesOutside_of_stored {s t : State} {e : Drive} {sl : Slot} {img : ByteSeq} {off n : Nat} (hsl : s.slot e = some sl)
    (ht : SameSlots (s.setSlot e (some ⟨img, true⟩)) t) (h : SameBytesOutside sl.img img off n) :
    SameImagesOutside s t e off n :=
  sameImagesOutside_of_slot hsl (fun d => by rw [ht.slot d, setSlot_slot]) h

theorem exec_formatTrack_of_idle {s : State} (hidle : isBusy s = false) :
    exec .formatTrack s = .next { formatTrackBody (accept s.cfg.opc.formatTrack s) with result := .done } :=
  commandWrite_of_idle hidle _ _

theorem formatTrackBody_of_error {s : State} {f : UnitFailure}
    (h : arbFormatTrack s (driveOf s.cfg s.driveSelect) s.track.toNat = .error f) :
    formatTrackBody s = complete (failCode f) s := by
  simp only [formatTrackBody, h]

theorem formatTrackBody_of_ok {s u : State} (h : arbFormatTrack s (driveOf s.cfg s.driveSelect) s.track.toNat = .ok u) :
    formatTrackBody s = complete .ok u := by
  simp only [formatTrackBody, h]

theorem sameSlots_accept (v : Byte) (s : State) : SameSlots s (accept v s) := ⟨rfl, rfl⟩

/-- Settles O23: the arbiter clears the track in the image of the selected drive, or fails before it stores one. -/
theorem formatTrackOutcomes : Obligations.FormatTrackOutcomes := by
  intro s hidle
  rw [exec_formatTrack_of_idle hidle]
  have haccept := sameSlots_accept s.cfg.opc.formatTrack s
  refine ⟨fun hnone => ?_, fun e sl hdrive hsl => ?_⟩
  · rw [formatTrackBody_of_error (arbFormatTrack_of_not_ready ((haccept.slotOf _).trans hnone) _)]
    rfl
  · have hformat := arbFormatTrack_of_mounted ((haccept.slot e).trans hsl) s.track.toNat
    rw [← hdrive, accept_cfg] at hformat
    refine ⟨fun herr => ?_, fun off hloc => ?_⟩
    · rw [formatTrackBody_of_error (hformat.trans (by rw [herr]; rfl))]
      rfl
    · rw [formatTrackBody_of_ok (hformat.trans (by rw [hloc]; rfl))]
      have hframe : SameBytesOutside sl.img (sl.img.clear off 4608) off 4608 := sameBytesOutside_clear _ _ _
      refine ⟨_, sl.img.clear off 4608, rfl, by cases e <;> rfl, hframe, holdsAt_clear _ _ _, ?_⟩
      have hstored := haccept.setSlot e (some ⟨sl.img.clear off 4608, true⟩)
      exact sameImagesOutside_of_stored hsl ⟨hstored.slotA, hstored.slotB⟩ hframe

/-! ## The commit -/

theorem feedByte_of_last {s : State} (hidx : s.xferIdx = 511) (v : Byte) :
    feedByte v s = { s with data := v, buf := s.buf.set 511 v, xferIdx := 512 } := by
  rw [feedByte, hidx]

/-- Settles O31: the arbiter writes the fed buffer to the latched target, or fails before it stores an image. -/
theorem lastDataWriteCommits : Obligations.LastDataWriteCommits := by
  intro s v hphase hidx hlen
  rw [exec_wrData_commits hphase hidx, feedByte_of_last hidx]
  have hfed : SameSlots s { s with data := v, buf := s.buf.set 511 v, xferIdx := 512 } := ⟨rfl, rfl⟩
  refine ⟨fun hnone => ?_, fun e sl hdrive hsl => ?_⟩
  · rw [commit_of_error (arbWrite_of_not_ready ((hfed.slotOf _).trans hnone) _ _ _)]
    rfl
  · have hwrite := arbWrite_of_mounted ((hfed.slot e).trans hsl) s.wrTrack.toNat s.wrSector.toNat (s.buf.set 511 v)
    rw [← hdrive] at hwrite
    refine ⟨fun herr => ?_, fun off hloc => ?_⟩
    · rw [commit_of_error (hwrite.trans (by rw [herr]; rfl))]
      rfl
    · rw [commit_of_ok (hwrite.trans (by rw [hloc]; rfl))]
      have hframe : SameBytesOutside sl.img (sl.img.write off (s.buf.set 511 v)) off 512 :=
        sameBytesOutside_write (List.length_set.trans hlen)
      refine ⟨_, sl.img.write off (s.buf.set 511 v), rfl, by cases e <;> rfl, hframe, holdsAt_write _ _ _, ?_⟩
      have hstored := hfed.setSlot e (some ⟨sl.img.write off (s.buf.set 511 v), true⟩)
      exact sameImagesOutside_of_stored hsl ⟨hstored.slotA, hstored.slotB⟩ hframe

end Sys2Proof.Machine
end

section
/-! The command in flight (R242, R244): which operations leave the phase, `st`, the latches and the pending completion as they are,
and what each of the others makes of the phase and `st`. -/

namespace Sys2Proof.Machine

/-! ## Operations that leave the state machine alone -/

/-- The state machine is as before: phase, status byte, pending completion, latches (R23, R32, R37, R38). -/
structure SameCommand (s t : State) : Prop where
  phase    : t.phase = s.phase
  status   : t.status = s.status
  pend     : t.pend = s.pend
  wrDrive  : t.wrDrive = s.wrDrive
  wrTrack  : t.wrTrack = s.wrTrack
  wrSector : t.wrSector = s.wrSector

theorem SameCommand.refl (s : State) : SameCommand s s := ⟨rfl, rfl, rfl, rfl, rfl, rfl⟩

theorem SameCommand.of_answer {s s' t : State} {r : Result} (h : answer r s' = .next t) (hs : SameCommand s s') :
    SameCommand s t := by
  obtain rfl := answer_next_iff.1 h
  exact { hs with }

theorem SameCommand.of_slotsRewritten {s t : State} (h : SlotsRewritten s t) : SameCommand s t := by
  obtain ⟨⟨_, _, _, _, rfl⟩, -⟩ := h
  exact ⟨rfl, rfl, rfl, rfl, rfl, rfl⟩

theorem sameCommand_setSlot (s : State) (d : Drive) (x : Option Slot) : SameCommand s (s.setSlot d x) := by
  cases d <;> exact ⟨rfl, rfl, rfl, rfl, rfl, rfl⟩

theorem sameCommand_storeImage (s : State) (d : Option Drive) (img : ByteSeq) : SameCommand s (s.storeImage d img) := by
  cases d with
  | none => exact .refl s
  | some e => exact sameCommand_setSlot s e _

/-! ## Register accesses -/

theorem SameCommand.of_execRdData {s t : State} (h : execRdData s = .next t) : SameCommand s t := by
  unfold execRdData at h
  split at h
  · split at h
    · cases h
    · exact .of_answer h ⟨rfl, rfl, rfl, rfl, rfl, rfl⟩
  · exact .of_answer h (.refl s)

/-- R197: of the DATA writes only the 512th of a write data phase commits. -/
theorem SameCommand.of_execWrData {s t : State} {v : Byte} (hkeep : ¬(s.phase = .awaitingData ∧ s.xferIdx = 511))
    (h : execWrData v s = .next t) : SameCommand s t := by
  unfold execWrData at h
  split at h
  · next hphase =>
    split at h
    · split at h
      · next hlast => exact absurd ⟨hphase, Nat.succ.inj hlast⟩ hkeep
      · exact .of_answer h ⟨rfl, rfl, rfl, rfl, rfl, rfl⟩
    · cases h
  · exact .of_answer h ⟨rfl, rfl, rfl, rfl, rfl, rfl⟩

/-- R192 to R201: a register access leaves the state machine alone, unless it writes COMMAND or the last byte of a data phase. -/
theorem SameCommand.of_access {s t : State} {i : Instr} (hi : i.format = .reg) (hcommand : ∀ v, i ≠ .wrCommand v)
    (hlast : ∀ v, i = .wrData v → ¬(s.phase = .awaitingData ∧ s.xferIdx = 511)) (h : exec i s = .next t) : SameCommand s t := by
  cases i <;> cases hi
  case wrCommand v => exact absurd rfl (hcommand v)
  case rdData => exact .of_execRdData h
  case wrData v => exact .of_execWrData (hlast v rfl) h
  case rdPad k =>
    change execRdPad k s = _ at h
    unfold execRdPad at h
    split at h
    · cases h
    · exact .of_answer h (.refl s)
  case wrPad k v =>
    change execWrPad k v s = _ at h
    unfold execWrPad at h
    split at h
    · exact .of_answer h ⟨rfl, rfl, rfl, rfl, rfl, rfl⟩
    · cases h
  all_goals exact .of_answer h ⟨rfl, rfl, rfl, rfl, rfl, rfl⟩

/-! ## Unit operations -/

theorem SameCommand.of_answerRead {s t : State} {r : Except UnitFailure (List Byte)} (h : answerRead s r = .next t) :
    SameCommand s t := by
  cases r with
  | error f => exact .of_answer h (.refl s)
  | ok bytes => exact .of_answer h (.refl s)

theorem SameCommand.of_answerWrite {s t : State} {b : BufRef} {r : Except UnitFailure ByteSeq} (h : answerWrite s b r = .next t) :
    SameCommand s t := by
  cases r with
  | error f => exact .of_answer h (.refl s)
  | ok b' =>
    cases b with
    | handed x => exact .of_answer h (.refl s)
    | slot d => exact .of_answer h (sameCommand_storeImage s d b')

theorem SameCommand.of_answerSlotWrite {s t : State} {r : Except UnitFailure State} (h : answerSlotWrite s r = .next t)
    (hr : ∀ s', r = .ok s' → SameCommand s s') : SameCommand s t := by
  cases r with
  | error f => exact .of_answer h (.refl s)
  | ok s' => exact .of_answer h (hr s' rfl)

/-- An operation whose payload is refused at a wrong length (log 8). -/
theorem SameCommand.of_guarded {s t : State} {c : Prop} [Decidable c] {a : Answer} {r : Refusal}
    (h : (if c then a else .refused r) = .next t) (ha : a = .next t → SameCommand s t) : SameCommand s t := by
  split at h
  · exact ha h
  · cases h

theorem SameCommand.of_arbWrite {s s' : State} {d : Option Drive} {track sector : Nat} {data : List Byte}
    (h : arbWrite s d track sector data = .ok s') : SameCommand s s' := by
  rcases arbWrite_cases s d track sector data with ⟨-, he⟩ | ⟨e, sl, -, -, -, he⟩ | ⟨e, sl, off, -, -, -, he⟩ <;>
    rw [he] at h <;> cases h
  exact sameCommand_setSlot s e _

theorem SameCommand.of_arbFormatTrack {s s' : State} {d : Option Drive} {track : Nat} (h : arbFormatTrack s d track = .ok s') :
    SameCommand s s' := by
  rcases arbFormatTrack_cases s d track with ⟨-, he⟩ | ⟨e, sl, -, -, -, he⟩ | ⟨e, sl, off, -, -, -, he⟩ <;>
    rw [he] at h <;> cases h
  exact sameCommand_setSlot s e _

theorem SameCommand.of_execHostMount {s t : State} {d : Option Drive} {image : Option ByteSeq}
    (h : execHostMount d image s = .next t) : SameCommand s t := by
  unfold execHostMount at h
  split at h
  · exact .of_answer h (.refl s)
  · exact .of_answer h (.refl s)
  · split at h
    · exact .of_answer h (.refl s)
    · split at h
      · cases h
      · exact .of_answer h (sameCommand_setSlot s _ _)

theorem SameCommand.of_execHostUnmount {s t : State} {d : Option Drive} {io : IoOutcome} (h : execHostUnmount d io s = .next t) :
    SameCommand s t := by
  unfold execHostUnmount at h
  split at h
  · exact .of_answer h (.refl s)
  · split at h
    · exact .of_answer h (.refl s)
    · exact .of_answer h (.of_slotsRewritten (slotsRewritten_unmountSlot _ io s))

theorem SameCommand.of_execHostPersist {s t : State} {d : Option Drive} {io : IoOutcome} (h : execHostPersist d io s = .next t) :
    SameCommand s t := by
  unfold execHostPersist at h
  split at h
  · exact .of_answer h (.of_slotsRewritten (slotsRewritten_persistSlot _ io s))
  · exact .of_answer h ⟨rfl, rfl, rfl, rfl, rfl, rfl⟩

theorem SameCommand.of_execHostImage {s t : State} {d : Option Drive} {op : ImageOp} (h : execHostImage d op s = .next t) :
    SameCommand s t := by
  unfold execHostImage at h
  split at h
  · cases h
  · cases op with
    | readBytes offsets =>
      dsimp only at h
      split at h
      · exact .of_answer h (.refl s)
      · cases h
    | replaceBytes cells =>
      dsimp only at h
      split at h
      · exact .of_answer h (sameCommand_storeImage s d _)
      · cases h

/-- R120 to R181: a unit operation leaves the state machine alone, unless it is the step of FIRE or of RESET. -/
theorem SameCommand.of_unit {s t : State} {i : Instr} (hi : i.format = .unit) (hfire : i ≠ .fire) (hreset : i ≠ .reset)
    (h : exec i s = .next t) : SameCommand s t := by
  cases i <;> cases hi
  case fire => exact absurd rfl hfire
  case reset => exact absurd rfl hreset
  case crcVerify sector => exact .of_guarded h fun h' => .of_answer h' (.refl s)
  case satP2L track sector =>
    change execSatP2L track sector s = _ at h
    unfold execSatP2L at h
    split at h <;> exact .of_answer h (.refl s)
  case satL2P index =>
    change execSatL2P index s = _ at h
    unfold execSatL2P at h
    split at h <;> exact .of_answer h (.refl s)
  case secWrite => exact .of_guarded h .of_answerWrite
  case secWriteM => exact .of_guarded h .of_answerWrite
  case secFmtTrk => exact .of_answerWrite h
  case secFmtDsk => exact .of_answerWrite h
  case arbWrite => exact .of_guarded h fun h' => .of_answerSlotWrite h' fun _ => .of_arbWrite
  case arbFmtTrk => exact .of_answerSlotWrite h fun _ => .of_arbFormatTrack
  case hostMount => exact .of_execHostMount h
  case hostUnmount => exact .of_execHostUnmount h
  case hostPersist => exact .of_execHostPersist h
  case hostSaveAll ioA ioB =>
    exact .of_answer h (.of_slotsRewritten ((slotsRewritten_persistSlot .A ioA s).trans (slotsRewritten_persistSlot .B ioB _)))
  case hostUnmountAll ioA ioB =>
    exact .of_answer h (.of_slotsRewritten ((slotsRewritten_unmountSlot .A ioA s).trans (slotsRewritten_unmountSlot .B ioB _)))
  case hostImage => exact .of_execHostImage h
  case crcCompute | hostCreate => exact .of_answer h (.refl s)
  case secRead | secReadM | arbRead => exact .of_answerRead h

/-! ## A bus access while BUSY -/

/-- While BUSY a bus access is dropped or leaves the state machine alone, but for the last byte of a data phase (R193, R242). -/
theorem sameCommand_of_busy {s t : State} {i : Instr} (hbusy : isBusy s = true) (hi : i.format ≠ .unit)
    (hlast : ∀ v, i = .wrData v → ¬(s.phase = .awaitingData ∧ s.xferIdx = 511)) (h : exec i s = .next t) : SameCommand s t := by
  have hdropped {j : Instr} (hj : j.format = .cmd) (hexec : exec j s = .next t) : SameCommand s t := by
    rw [exec_command_of_busy hj hbusy] at hexec
    exact .of_answer hexec (.refl s)
  cases hf : i.format with
  | unit => exact absurd hf hi
  | cmd => exact hdropped hf h
  | reg =>
    by_cases hcommand : ∃ v, i = .wrCommand v
    · obtain ⟨v, rfl⟩ := hcommand
      exact hdropped (decodeCommand_format _ _) (exec_wrCommand_eq_command v s ▸ h)
    · exact .of_access hf (not_exists.1 hcommand) hlast h

/-- While BUSY a bus access changes a slot only with the last byte of a data phase (R168). -/
theorem mayChangeSlots_of_busy {s : State} {i : Instr} (hbusy : isBusy s = true) (hi : i.format ≠ .unit)
    (hlast : ∀ v, i = .wrData v → ¬(s.phase = .awaitingData ∧ s.xferIdx = 511)) : mayChangeSlots s i = false := by
  cases i with
  | formatTrack => simp [mayChangeSlots, hbusy]
  | wrCommand v => simp [mayChangeSlots, hbusy]
  | wrData v => exact decide_eq_false (hlast v rfl)
  | secWrite | secWriteM | secFmtTrk | secFmtDsk | arbWrite | arbFmtTrk => exact absurd rfl hi
  | hostMount | hostUnmount | hostPersist | hostSaveAll | hostUnmountAll | hostImage => exact absurd rfl hi
  | _ => rfl

/-- Settles O13: the state machine and the slots are the two halves of what a command in flight rests on. -/
theorem noBusAccessDisturbsCommandInFlight : Obligations.NoBusAccessDisturbsCommandInFlight := by
  intro s t i _ hbusy hi h hnotLast
  have hlast (v : Byte) (hv : i = .wrData v) : ¬(s.phase = .awaitingData ∧ s.xferIdx = 511) := fun hw =>
    hnotLast ⟨hw.1, hw.2, v, hv⟩
  obtain ⟨hphase, hstatus, hpend, hdrive, htrack, hsector⟩ := sameCommand_of_busy hbusy hi hlast h
  obtain ⟨hA, hB⟩ := sameSlots_of_exec (mayChangeSlots_of_busy hbusy hi hlast) h
  exact ⟨hphase, hstatus, hpend, hdrive, htrack, hsector, hA, hB⟩

/-! ## The transitions -/

/-- A COMMAND write is the command its byte selects, whichever way it is presented (R90, R193). -/
theorem exec_of_commandByte {s : State} {i : Instr} {v : Byte} (hvalid : s.cfg.valid = true) (hwf : i.wf s.cfg = true)
    (hi : commandByte s.cfg i = some v) : exec i s = exec (decodeCommand s.cfg v) s := by
  unfold commandByte at hi
  split at hi
  · cases hi
    exact exec_wrCommand_eq_command v s
  · split at hi
    · next henc =>
      cases hi
      have hdec := decode_encode_of_command hvalid hwf (format_of_encode_cmd henc)
      rw [henc] at hdec
      rw [Except.ok.inj hdec]
    · cases hi

theorem format_ne_cmd_of_commandByte_none {p : Config.Params} {i : Instr} (h : commandByte p i = none) : i.format ≠ .cmd := by
  intro hf
  cases i <;> cases hf <;> cases h

/-- Resting with a completion code in STATUS (R223). -/
def Completed (s : State) : Prop := s.phase = .idle ∧ isCode s.status

theorem completed_complete (c : StatusCode) (s : State) : Completed (complete c s) := ⟨rfl, isCode_toByte c⟩

theorem completed_readSectorBody (s : State) : Completed (readSectorBody s) := by
  rcases readSectorBody_cases s with ⟨_, -, he⟩ | ⟨_, _, _, -, -, -, he | he⟩ <;> rw [he] <;> exact completed_complete _ _

theorem completed_formatTrackBody (s : State) : Completed (formatTrackBody s) := by
  rcases formatTrackBody_cases s with ⟨-, he⟩ | ⟨_, _, -, -, -, he⟩ | ⟨_, _, _, -, -, -, he⟩ <;> rw [he] <;>
    exact completed_complete _ _

theorem completed_readIdBody (s : State) : Completed (readIdBody s) := by
  obtain ⟨c, -, he⟩ := readIdBody_cases s
  rw [he]
  exact completed_complete c s

theorem completed_commit (s : State) : Completed (commit s) := by
  rcases commit_cases s with ⟨-, he⟩ | ⟨_, _, -, -, -, he⟩ | ⟨_, _, _, -, -, -, he⟩ <;> rw [he] <;> exact completed_complete _ _

/-- R244: what a command issued on an idle block makes of the phase and `st`. -/
inductive Issued (s : State) : Instr → State → Prop where
  | receiving {t : State} (hphase : t.phase = .awaitingData) (hstatus : t.status = awaitByte s.cfg) : Issued s .writeSector t
  | deferred {i : Instr} {t : State} (hi : i = .seekTrack ∨ i = .recalibrate) (hphase : t.phase = .seekPending)
      (hstatus : t.status = busyByte s.cfg) : Issued s i t
  | completed {i : Instr} {t : State} (hwrite : i ≠ .writeSector) (hseek : i ≠ .seekTrack) (hrecal : i ≠ .recalibrate)
      (hdone : Completed t) : Issued s i t

theorem issued_of_idle {s t : State} {i : Instr} (hidle : isBusy s = false) (hi : i.format = .cmd) (h : exec i s = .next t) :
    Issued s i t := by
  have hrun {v : Byte} {body : State → State} (hexec : commandWrite v body s = .next t) :
      t = { body (accept v s) with result := .done } := by
    rw [commandWrite_of_idle hidle] at hexec
    cases hexec
    rfl
  have hcompleted {v : Byte} {body : State → State} (hexec : commandWrite v body s = .next t) (hbody : ∀ u, Completed (body u)) :
      Completed t := hrun hexec ▸ hbody (accept v s)
  cases i <;> cases hi
  case writeSector => exact hrun h ▸ .receiving rfl rfl
  case seekTrack => exact hrun h ▸ .deferred (.inl rfl) rfl rfl
  case recalibrate => exact hrun h ▸ .deferred (.inr rfl) rfl rfl
  all_goals refine .completed nofun nofun nofun (hcompleted h fun u => ?_)
  case readSector => exact completed_readSectorBody u
  case readStatus => exact completed_complete .ok _
  case formatTrack => exact completed_formatTrackBody u
  case readId => exact completed_readIdBody u
  case senseInterrupt => exact ⟨rfl, isCode_toByte .ok⟩
  case invalid => exact completed_complete .invalidCmd u

/-- No two commands have one opcode (R7, R94). -/
theorem decodeCommand_eq_iff {p : Config.Params} (hp : p.valid = true) {v w : Byte} {i : Instr} (hrow : (w, i) ∈ opcodeTable p.opc) :
    decodeCommand p v = i ↔ v = w := by
  refine ⟨?_, ?_⟩
  · rintro rfl
    exact Request.cmd.inj ((encode_decodeCommand p v).symm.trans (encode_and_wf_of_mem_opcodeTable hrow).1)
  · rintro rfl
    exact decodeCommand_of_mem hp hrow

/-- R244: what an accepted COMMAND write makes of the phase and `st`, by its byte. -/
theorem issued_byte_cases {s t : State} {v : Byte} (hvalid : s.cfg.valid = true) (h : Issued s (decodeCommand s.cfg v) t) :
    (v = s.cfg.opc.writeSector ∧ t.phase = .awaitingData ∧ t.status = awaitByte s.cfg)
      ∨ ((v = s.cfg.opc.seekTrack ∨ v = s.cfg.opc.recalibrate) ∧ t.phase = .seekPending ∧ t.status = busyByte s.cfg)
      ∨ (v ≠ s.cfg.opc.writeSector ∧ v ≠ s.cfg.opc.seekTrack ∧ v ≠ s.cfg.opc.recalibrate ∧ Completed t) := by
  have hwrite : decodeCommand s.cfg v = .writeSector ↔ v = s.cfg.opc.writeSector :=
    decodeCommand_eq_iff hvalid (by simp [opcodeTable])
  have hseek : decodeCommand s.cfg v = .seekTrack ↔ v = s.cfg.opc.seekTrack :=
    decodeCommand_eq_iff hvalid (by simp [opcodeTable])
  have hrecal : decodeCommand s.cfg v = .recalibrate ↔ v = s.cfg.opc.recalibrate :=
    decodeCommand_eq_iff hvalid (by simp [opcodeTable])
  generalize decodeCommand s.cfg v = i at h hwrite hseek hrecal
  cases h with
  | receiving hphase hstatus => exact .inl ⟨hwrite.1 rfl, hphase, hstatus⟩
  | deferred hi hphase hstatus => exact .inr (.inl ⟨hi.imp hseek.1 hrecal.1, hphase, hstatus⟩)
  | completed hw hs hr hdone => exact .inr (.inr ⟨mt hwrite.2 hw, mt hseek.2 hs, mt hrecal.2 hr, hdone⟩)

/-- R240: FIRE runs only while a completion is pending, whose code R38 makes 0x00. -/
theorem fire_transition {s t : State} (hs : Inv s) (h : exec .fire s = .next t) :
    s.phase = .seekPending ∧ t.phase = .idle ∧ t.status = 0x00#8 := by
  change execFire s = _ at h
  unfold execFire at h
  split at h
  · next p hphase hpend =>
    cases h
    obtain ⟨-, -, hcode⟩ := hs.seeking hphase
    rw [hpend] at hcode
    rcases hcode with hcode | hcode <;> cases hcode <;> exact ⟨hphase, rfl, rfl⟩
  · cases h

theorem exec_reset_phase_status {s t : State} (h : exec .reset s = .next t) : t.phase = .idle ∧ t.status = 0x00#8 := by
  cases h
  exact ⟨rfl, rfl⟩

/-- Settles O12: a COMMAND write goes by its byte if it is accepted; of the other operations FIRE, the last byte of a data phase and
a reset end a phase, and the rest leave the state machine alone. -/
theorem phaseChangesOnlyAsTabled : Obligations.PhaseChangesOnlyAsTabled := by
  intro s t i hs hwf h
  cases hbyte : commandByte s.cfg i with
  | some v =>
    have hreset : i ≠ .reset := by rintro rfl; cases hbyte
    rw [exec_of_commandByte hs.cfgValid hwf hbyte] at h
    cases hbusy : isBusy s with
    | true =>
      rw [exec_command_of_busy (decodeCommand_format _ _) hbusy] at h
      cases h
      exact .inl ⟨hreset, rfl, .inl rfl⟩
    | false =>
      have hidle := hs.idle_of_not_busy hbusy
      rcases issued_byte_cases hs.cfgValid (issued_of_idle hbusy (decodeCommand_format _ _) h) with
        ⟨rfl, hphase, hstatus⟩ | ⟨hv, hphase, hstatus⟩ | ⟨hw, hk, hr, hphase, hcode⟩
      · exact .inr (.inl ⟨hidle, hphase, rfl, hstatus⟩)
      · exact .inr (.inr (.inl ⟨hidle, hphase, hstatus, hv.imp (congrArg some) (congrArg some)⟩))
      · exact .inl ⟨hreset, hphase.trans hidle.symm, .inr ⟨hidle, hcode, v, rfl, hw, hk, hr⟩⟩
  | none =>
    by_cases hreset : i = .reset
    · subst hreset
      exact .inr (.inr (.inr (.inr (.inr ⟨rfl, exec_reset_phase_status h⟩))))
    by_cases hfire : i = .fire
    · subst hfire
      obtain ⟨hphase, hidle, hstatus⟩ := fire_transition hs h
      exact .inr (.inr (.inr (.inr (.inl ⟨hphase, hidle, rfl, hstatus⟩))))
    by_cases hlast : ∃ v, i = .wrData v ∧ s.phase = .awaitingData ∧ s.xferIdx = 511
    · obtain ⟨v, rfl, hphase, hidx⟩ := hlast
      rw [exec_wrData_commits hphase hidx] at h
      cases h
      obtain ⟨hidle, hcode⟩ := completed_commit (feedByte v s)
      exact .inr (.inr (.inr (.inl ⟨hphase, hidle, ⟨v, rfl⟩, hidx, hcode⟩)))
    have hkeep : SameCommand s t := by
      cases hf : i.format with
      | cmd => exact absurd hf (format_ne_cmd_of_commandByte_none hbyte)
      | reg => exact .of_access hf (by rintro v rfl; cases hbyte) (fun v hv hw => hlast ⟨v, hv, hw⟩) h
      | unit => exact .of_unit hf hfire hreset h
    exact .inl ⟨hreset, hkeep.phase, .inl hkeep.status⟩

end Sys2Proof.Machine
end

section
/-! A bus access never fails (R264): each access of the window and each command byte has a next state. -/

namespace Sys2Proof.Machine

/-! ## Command bytes -/

/-- A command is answered in one way, whether it is dropped or accepted (R193, R264). -/
theorem exec_command_answers_done {i : Instr} (hi : i.format = .cmd) (s : State) : ∃ t, exec i s = .next t ∧ t.result = .done := by
  have hanswer (v : Byte) (body : State → State) : ∃ t, commandWrite v body s = .next t ∧ t.result = .done := by
    rcases commandWrite_cases v body s with ⟨-, he⟩ | ⟨-, he⟩ <;> exact ⟨_, he, rfl⟩
  cases i <;> cases hi
  all_goals exact hanswer _ _

theorem exec_wrCommand_answers_done (v : Byte) (s : State) : ∃ t, exec (.wrCommand v) s = .next t ∧ t.result = .done := by
  rw [exec_wrCommand_eq_command]
  exact exec_command_answers_done (decodeCommand_format s.cfg v) s

/-! ## Window accesses -/

/-- R44 (d) keeps a read transfer inside the buffer. -/
theorem Inv.exec_rdData_next {s : State} (hs : Inv s) : ∃ t, exec .rdData s = .next t := by
  cases hrd : s.rdActive with
  | false => exact ⟨_, exec_rdData_of_inactive hrd⟩
  | true =>
    have hidx : s.xferIdx < s.buf.length := by
      obtain ⟨-, -, hlt⟩ := hs.reading hrd
      exact hs.bufLength.symm ▸ hlt.trans_le hs.limitRange.2
    exact ⟨_, exec_rdData_of_active hrd (List.getElem?_eq_getElem hidx)⟩

/-- R44 (b) keeps a write data phase inside the buffer. -/
theorem Inv.exec_wrData_next {s : State} (hs : Inv s) (v : Byte) : ∃ t, exec (.wrData v) s = .next t := by
  by_cases hphase : s.phase = .awaitingData
  · obtain ⟨-, hidx, -⟩ := hs.awaiting hphase
    rcases Nat.lt_or_eq_of_le (Nat.le_of_lt_succ hidx) with hlt | hlast
    · exact ⟨_, exec_wrData_feeds hphase hlt v⟩
    · exact ⟨_, exec_wrData_commits hphase hlast v⟩
  · exact ⟨_, exec_wrData_of_not_awaiting hphase v⟩

theorem Inv.exec_register_next {s : State} (hs : Inv s) (r : RegName) (a : Access) : ∃ t, exec (decodeRegister r a) s = .next t := by
  cases a with
  | rd =>
    by_cases hdata : r = .data
    · exact hdata ▸ hs.exec_rdData_next
    · exact ⟨_, exec_readRegister hdata s⟩
  | wr v =>
    by_cases hcommand : r = .command
    · obtain ⟨t, ht, -⟩ := exec_wrCommand_answers_done v s
      exact ⟨t, hcommand ▸ ht⟩
    · by_cases hdata : r = .data
      · exact hdata ▸ hs.exec_wrData_next v
      · obtain ⟨t, ht, -⟩ := exec_writeRegister_eraseOperands hcommand hdata s v
        exact ⟨t, ht⟩

theorem Inv.exec_access_next {s : State} (hs : Inv s) {target : RegName ⊕ Nat} (htarget : TargetExists s.cfg target) (a : Access) :
    ∃ t, exec (accessOp target a) s = .next t := by
  cases target with
  | inl r => exact hs.exec_register_next r a
  | inr k =>
    have hk : k < s.pad.length := hs.padLength.symm ▸ htarget k rfl
    cases a with
    | rd => exact ⟨_, exec_rdPad (List.getElem?_eq_getElem hk)⟩
    | wr v => exact ⟨_, exec_wrPad hk v⟩

/-- Settles O10: a bus operation is a command or an access; the window has a register or a stored byte at each offset. -/
theorem busAccessNeverFails : Obligations.BusAccessNeverFails := by
  refine ⟨fun s i hs hwf hi => ?_, fun s off a hs hoff => ?_, fun s t v h => ?_, fun s v hbusy => ?_⟩
  · cases hf : i.format with
    | unit => exact absurd hf hi
    | cmd =>
      obtain ⟨t, ht, -⟩ := exec_command_answers_done hf s
      exact ⟨t, ht⟩
    | reg =>
      obtain ⟨target, a, rfl⟩ := exists_accessOp_of_reg hf
      exact hs.exec_access_next ((wf_accessOp_iff s.cfg target a).1 hwf) a
  · rw [decodeAccess_eq_accessOp]
    exact hs.exec_access_next (targetOffset_decodeOffset hs.cfgValid hoff).2 a
  · obtain ⟨u, hu, hdone⟩ := exec_wrCommand_answers_done v s
    rw [hu] at h
    cases h
    exact hdone
  · rw [exec_wrCommand_eq_command]
    exact exec_command_of_busy (decodeCommand_format s.cfg v) hbusy

end Sys2Proof.Machine
end

section
/-! The interrupt flag (R39, R265, R266): what a completion makes of it, which operations run one, and that no other operation but
SENSE_INTERRUPT and reset touches it. -/

namespace Sys2Proof.Machine

/-! ## Completions -/

theorem complete_irqPending_iff (c : StatusCode) (s : State) : (complete c s).irqPending = true ↔ c = .ok ∨ s.irqPending = true := by
  rw [complete_eq]
  simp

/-- `t` is left by a completion with code `c`, run where the flag was as in `s` (R223). -/
structure CompletedBy (c : StatusCode) (s t : State) : Prop where
  status : t.status = c.toByte
  phase  : t.phase = .idle
  flag   : t.irqPending = true ↔ c = .ok ∨ s.irqPending = true

theorem completedBy_complete {s u : State} (c : StatusCode) (hu : u.irqPending = s.irqPending) : CompletedBy c s (complete c u) where
  status := rfl
  phase := rfl
  flag := hu ▸ complete_irqPending_iff c u

theorem completedBy_readSectorBody (s : State) : ∃ c, CompletedBy c s (readSectorBody s) := by
  rcases readSectorBody_cases s with ⟨_, -, he⟩ | ⟨_, _, _, -, -, -, he | he⟩ <;> rw [he] <;> exact ⟨_, completedBy_complete _ rfl⟩

theorem completedBy_formatTrackBody (s : State) : ∃ c, CompletedBy c s (formatTrackBody s) := by
  rcases formatTrackBody_cases s with ⟨-, he⟩ | ⟨_, _, -, -, -, he⟩ | ⟨_, _, _, -, -, -, he⟩ <;> rw [he] <;>
    exact ⟨_, completedBy_complete _ (by simp)⟩

theorem completedBy_readIdBody (s : State) : ∃ c, CompletedBy c s (readIdBody s) := by
  obtain ⟨c, -, he⟩ := readIdBody_cases s
  exact ⟨c, he ▸ completedBy_complete c rfl⟩

theorem completedBy_commit (s : State) : ∃ c, CompletedBy c s (commit s) := by
  rcases commit_cases s with ⟨-, he⟩ | ⟨_, _, -, -, -, he⟩ | ⟨_, _, _, -, -, -, he⟩ <;> rw [he] <;>
    exact ⟨_, completedBy_complete _ (by simp)⟩

/-! ## Commands -/

/-- The commands that complete at once, through R223, with a code that can be 0x00. -/
def completingOpcodes (o : Config.Opcodes) : List Byte := [o.readSector, o.readStatus, o.formatTrack, o.readId]

theorem completingOpcodes_ne {o : Config.Opcodes} (ho : o.toList.Nodup) {v : Byte} (hv : v ∈ completingOpcodes o) :
    v ≠ o.senseInterrupt ∧ v ≠ o.writeSector ∧ v ≠ o.seekTrack ∧ v ≠ o.recalibrate := by
  simp only [completingOpcodes, List.mem_cons, List.not_mem_nil, or_false] at hv
  simp only [Config.Opcodes.toList, List.nodup_cons, List.mem_cons, List.not_mem_nil, or_false, not_or] at ho
  rcases hv with rfl | rfl | rfl | rfl <;> simp [ho, Ne.symm]

theorem encode_of_commandByte {p : Config.Params} {i : Instr} {v : Byte} (h : commandByte p i = some v) :
    i = .wrCommand v ∨ encode p i = .cmd v := by
  unfold commandByte at h
  split at h
  · cases h
    exact .inl rfl
  · split at h
    · next henc =>
      cases h
      exact .inr henc
    · cases h

/-- R265: an accepted command leaves the flag, is SENSE_INTERRUPT and clears it, or completes at once. -/
theorem flag_of_command {s t : State} {i : Instr} {v : Byte} (hidle : isBusy s = false) (hi : encode s.cfg i = .cmd v)
    (h : exec i s = .next t) :
    t.irqPending = s.irqPending ∨ (v = s.cfg.opc.senseInterrupt ∧ t.irqPending = false)
      ∨ (v ∈ completingOpcodes s.cfg.opc ∧ ∃ c, CompletedBy c s t) := by
  have hrun {w : Byte} {body : State → State} (hexec : commandWrite w body s = .next t) :
      t = { body (accept w s) with result := .done } := by
    rw [commandWrite_of_idle hidle] at hexec
    cases hexec
    rfl
  have hcompletes {w : Byte} {body : State → State} (hexec : commandWrite w body s = .next t)
      (hbody : ∀ u, ∃ c, CompletedBy c u (body u)) : ∃ c, CompletedBy c s t := by
    obtain ⟨c, hc⟩ := hbody (accept w s)
    exact ⟨c, hrun hexec ▸ { hc with }⟩
  have hformat := format_of_encode_cmd hi
  cases i <;> cases hformat <;> cases hi
  case readSector => exact .inr (.inr ⟨by simp [completingOpcodes], hcompletes h completedBy_readSectorBody⟩)
  case readStatus =>
    exact .inr (.inr ⟨by simp [completingOpcodes], hcompletes h fun _ => ⟨.ok, completedBy_complete .ok rfl⟩⟩)
  case formatTrack => exact .inr (.inr ⟨by simp [completingOpcodes], hcompletes h completedBy_formatTrackBody⟩)
  case readId => exact .inr (.inr ⟨by simp [completingOpcodes], hcompletes h completedBy_readIdBody⟩)
  case senseInterrupt => exact .inr (.inl ⟨rfl, hrun h ▸ rfl⟩)
  case writeSector | seekTrack | recalibrate | invalid => exact .inl (hrun h ▸ rfl)

/-! ## Operations that leave the flag alone -/

/-- The next state, if there is one, has the flag of `s`. -/
def KeepsFlag (s : State) : Answer → Prop
  | .next t => t.irqPending = s.irqPending
  | .fault _ => True
  | .refused _ => True

theorem SlotsRewritten.irqPending {s t : State} (h : SlotsRewritten s t) : t.irqPending = s.irqPending := by
  obtain ⟨⟨_, _, _, _, rfl⟩, -⟩ := h
  rfl

theorem keepsFlag_answerRead (s : State) (r : Except UnitFailure (List Byte)) : KeepsFlag s (answerRead s r) := by
  cases r <;> rfl

theorem keepsFlag_answerWrite (s : State) (b : BufRef) (r : Except UnitFailure ByteSeq) : KeepsFlag s (answerWrite s b r) := by
  cases r with
  | error f => rfl
  | ok b' =>
    cases b with
    | handed x => rfl
    | slot d => exact storeImage_irqPending s d b'

theorem keepsFlag_ite {s : State} {c : Prop} [Decidable c] {a : Answer} {r : Refusal} (ha : KeepsFlag s a) :
    KeepsFlag s (if c then a else .refused r) := by
  split
  · exact ha
  · trivial

theorem keepsFlag_execArbWrite (d : Option Drive) (track sector : Nat) (data : List Byte) (s : State) :
    KeepsFlag s (execArbWrite d track sector data s) := by
  refine keepsFlag_ite ?_
  rcases arbWrite_cases s d track sector data with ⟨-, he⟩ | ⟨e, sl, -, -, -, he⟩ | ⟨e, sl, off, -, -, -, he⟩ <;> rw [he]
  · rfl
  · rfl
  · exact setSlot_irqPending s e _

theorem keepsFlag_execArbFmtTrk (d : Option Drive) (track : Nat) (s : State) : KeepsFlag s (execArbFmtTrk d track s) := by
  unfold execArbFmtTrk
  rcases arbFormatTrack_cases s d track with ⟨-, he⟩ | ⟨e, sl, -, -, -, he⟩ | ⟨e, sl, off, -, -, -, he⟩ <;> rw [he]
  · rfl
  · rfl
  · exact setSlot_irqPending s e _

theorem keepsFlag_execHostMount (d : Option Drive) (image : Option ByteSeq) (s : State) : KeepsFlag s (execHostMount d image s) := by
  unfold execHostMount
  split
  · rfl
  · rfl
  · split
    · rfl
    · split
      · trivial
      · exact setSlot_irqPending s _ _

theorem keepsFlag_execHostUnmount (d : Option Drive) (io : IoOutcome) (s : State) : KeepsFlag s (execHostUnmount d io s) := by
  unfold execHostUnmount
  split
  · rfl
  · split
    · rfl
    · exact (slotsRewritten_unmountSlot _ io s).irqPending

theorem keepsFlag_execHostPersist (d : Option Drive) (io : IoOutcome) (s : State) : KeepsFlag s (execHostPersist d io s) := by
  unfold execHostPersist
  split
  · exact (slotsRewritten_persistSlot _ io s).irqPending
  · rfl

theorem keepsFlag_execHostImage (d : Option Drive) (op : ImageOp) (s : State) : KeepsFlag s (execHostImage d op s) := by
  unfold execHostImage
  split
  · trivial
  · cases op with
    | readBytes offsets =>
      dsimp only
      split
      · rfl
      · trivial
    | replaceBytes cells =>
      dsimp only
      split
      · exact storeImage_irqPending s d _
      · trivial

/-- R120 to R181: a unit operation leaves the flag alone, unless it is the step of FIRE or of RESET. -/
theorem keepsFlag_of_unit {i : Instr} (hi : i.format = .unit) (hfire : i ≠ .fire) (hreset : i ≠ .reset) (s : State) :
    KeepsFlag s (exec i s) := by
  cases i <;> cases hi
  case fire => exact absurd rfl hfire
  case reset => exact absurd rfl hreset
  case crcCompute | hostCreate => rfl
  case crcVerify => exact keepsFlag_ite rfl
  case satP2L track sector =>
    show KeepsFlag s (execSatP2L track sector s)
    unfold execSatP2L
    split <;> rfl
  case satL2P index =>
    show KeepsFlag s (execSatL2P index s)
    unfold execSatL2P
    split <;> rfl
  case secRead | secReadM | arbRead => exact keepsFlag_answerRead s _
  case secWrite | secWriteM => exact keepsFlag_ite (keepsFlag_answerWrite s _ _)
  case secFmtTrk | secFmtDsk => exact keepsFlag_answerWrite s _ _
  case arbWrite => exact keepsFlag_execArbWrite _ _ _ _ s
  case arbFmtTrk => exact keepsFlag_execArbFmtTrk _ _ s
  case hostMount => exact keepsFlag_execHostMount _ _ s
  case hostUnmount => exact keepsFlag_execHostUnmount _ _ s
  case hostPersist => exact keepsFlag_execHostPersist _ _ s
  case hostSaveAll ioA ioB =>
    exact ((slotsRewritten_persistSlot .A ioA s).trans (slotsRewritten_persistSlot .B ioB _)).irqPending
  case hostUnmountAll ioA ioB =>
    exact ((slotsRewritten_unmountSlot .A ioA s).trans (slotsRewritten_unmountSlot .B ioB _)).irqPending
  case hostImage => exact keepsFlag_execHostImage _ _ s

theorem keepsFlag_execRdData (s : State) : KeepsFlag s (execRdData s) := by
  unfold execRdData
  split
  · split
    · trivial
    · rfl
  · rfl

/-- R197: of the DATA writes only the 512th of a write data phase commits. -/
theorem keepsFlag_execWrData {s : State} (hkeep : ¬(s.phase = .awaitingData ∧ s.xferIdx = 511)) (v : Byte) :
    KeepsFlag s (execWrData v s) := by
  unfold execWrData
  split
  · next hphase =>
    split
    · split
      · next hlast => exact absurd ⟨hphase, Nat.succ.inj hlast⟩ hkeep
      · rfl
    · trivial
  · rfl

/-- R192 to R201: a register access leaves the flag alone, unless it writes COMMAND or the last byte of a data phase. -/
theorem keepsFlag_of_access {s : State} {i : Instr} (hi : i.format = .reg) (hcommand : ∀ v, i ≠ .wrCommand v)
    (hlast : ∀ v, i = .wrData v → ¬(s.phase = .awaitingData ∧ s.xferIdx = 511)) : KeepsFlag s (exec i s) := by
  cases i <;> cases hi
  case wrCommand v => exact absurd rfl (hcommand v)
  case rdData => exact keepsFlag_execRdData s
  case wrData v => exact keepsFlag_execWrData (hlast v rfl) v
  case rdPad k =>
    show KeepsFlag s (execRdPad k s)
    unfold execRdPad
    split
    · trivial
    · rfl
  case wrPad k v =>
    show KeepsFlag s (execWrPad k v s)
    unfold execWrPad
    split
    · rfl
    · trivial
  all_goals rfl

/-! ## What each operation makes of the flag -/

/-- The operations that run a completion whose code can be 0x00 (R265). -/
inductive Completing (s : State) : Instr → Prop where
  | fire (hphase : s.phase = .seekPending) : Completing s .fire
  | lastByte (v : Byte) (hphase : s.phase = .awaitingData) (hidx : s.xferIdx = 511) : Completing s (.wrData v)
  | command {i : Instr} {v : Byte} (hidle : isBusy s = false) (hbyte : commandByte s.cfg i = some v)
      (hv : v ∈ completingOpcodes s.cfg.opc) : Completing s i

/-- What an operation with a next state can make of the flag (`flagEffect_of_exec`). -/
inductive FlagEffect (s : State) : Instr → State → Prop where
  | kept {i : Instr} {t : State} (h : t.irqPending = s.irqPending) : FlagEffect s i t
  | reset {t : State} (h : t.irqPending = false) : FlagEffect s .reset t
  | sensed {i : Instr} {t : State} (hidle : isBusy s = false) (hbyte : commandByte s.cfg i = some s.cfg.opc.senseInterrupt)
      (h : t.irqPending = false) : FlagEffect s i t
  | completed {i : Instr} {t : State} {c : StatusCode} (hi : Completing s i) (hdone : CompletedBy c s t) : FlagEffect s i t

theorem flagEffect_of_command {s t : State} {i : Instr} {v : Byte} (hbyte : commandByte s.cfg i = some v) (h : exec i s = .next t) :
    FlagEffect s i t := by
  cases hbusy : isBusy s with
  | true =>
    obtain ⟨-, -, hdropped⟩ := commandWriteRunsSelectedCommand
    rw [hdropped s i v hbusy hbyte] at h
    cases h
    exact .kept rfl
  | false =>
    have hflag : t.irqPending = s.irqPending ∨ (v = s.cfg.opc.senseInterrupt ∧ t.irqPending = false)
        ∨ (v ∈ completingOpcodes s.cfg.opc ∧ ∃ c, CompletedBy c s t) := by
      rcases encode_of_commandByte hbyte with rfl | henc
      · exact flag_of_command hbusy (encode_decodeCommand s.cfg v) (exec_wrCommand_eq_command v s ▸ h)
      · exact flag_of_command hbusy henc h
    rcases hflag with hkept | ⟨rfl, hcleared⟩ | ⟨hv, c, hdone⟩
    · exact .kept hkept
    · exact .sensed hbusy hbyte hcleared
    · exact .completed (.command hbusy hbyte hv) hdone

theorem flagEffect_of_fire {s t : State} (h : exec .fire s = .next t) : FlagEffect s .fire t := by
  change execFire s = _ at h
  unfold execFire at h
  split at h
  · next p hphase hpend =>
    cases h
    exact .completed (.fire hphase) { completedBy_complete (s := s) p.code rfl with }
  · cases h

/-- Every operation leaves the flag, clears it as R265 allows, or runs a completion. -/
theorem flagEffect_of_exec {s t : State} {i : Instr} (h : exec i s = .next t) : FlagEffect s i t := by
  cases hbyte : commandByte s.cfg i with
  | some v => exact flagEffect_of_command hbyte h
  | none =>
    by_cases hreset : i = .reset
    · subst hreset
      cases h
      exact .reset rfl
    by_cases hfire : i = .fire
    · subst hfire
      exact flagEffect_of_fire h
    by_cases hlast : ∃ v, i = .wrData v ∧ s.phase = .awaitingData ∧ s.xferIdx = 511
    · obtain ⟨v, rfl, hphase, hidx⟩ := hlast
      rw [exec_wrData_commits hphase hidx] at h
      cases h
      obtain ⟨c, hc⟩ := completedBy_commit (feedByte v s)
      exact .completed (.lastByte v hphase hidx) (c := c) { hc with }
    have hkeep : KeepsFlag s (exec i s) := by
      cases hf : i.format with
      | cmd => exact absurd hf (format_ne_cmd_of_commandByte_none hbyte)
      | reg => exact keepsFlag_of_access hf (by rintro v rfl; cases hbyte) fun v hv hw => hlast ⟨v, hv, hw⟩
      | unit => exact keepsFlag_of_unit hf hfire hreset s
    rw [h] at hkeep
    exact .kept hkeep

/-- Settles O15: of the four things an operation can make of the flag, SENSE_INTERRUPT and reset clear it, and a completion sets it
when its code is 0x00. -/
theorem interruptFlagChangesOnlyAsRuled : Obligations.InterruptFlagChangesOnlyAsRuled := by
  refine ⟨fun s t i h hset hclear => ?_, fun s t i hvalid h hclear hset => ?_, complete_irqPending_iff⟩
  · cases flagEffect_of_exec h with
    | kept hkept => simp [hkept, hset] at hclear
    | reset => exact .inl rfl
    | sensed hidle hbyte => exact .inr ⟨hidle, hbyte⟩
    | completed hi hdone => simp [hdone.flag.2 (.inr hset)] at hclear
  · cases flagEffect_of_exec h with
    | kept hkept => simp [hkept, hclear] at hset
    | reset hcleared => simp [hcleared] at hset
    | sensed _ _ hcleared => simp [hcleared] at hset
    | completed hi hdone =>
      obtain rfl := (hdone.flag.1 hset).resolve_right (by simp [hclear])
      refine ⟨hdone.status, hdone.phase, ?_⟩
      cases hi with
      | fire hphase => exact .inl ⟨rfl, hphase⟩
      | lastByte v hphase hidx => exact .inr (.inl ⟨⟨v, rfl⟩, hphase, hidx⟩)
      | command hidle hbyte hv =>
        obtain ⟨hopcodes, -⟩ := (params_valid_iff s.cfg).1 hvalid
        exact .inr (.inr ⟨hidle, _, hbyte, completingOpcodes_ne hopcodes hv⟩)

end Sys2Proof.Machine
end

section
/-! Reset (R290, R291, R293): the first state meets the invariants, and RESET is a return to it that spares the slots. -/

namespace Sys2Proof.Machine

/-! ## The first state -/

theorem wellSized_reset : WellSized State.reset where
  cfgValid := default_valid
  bufLength := reset_buf_length
  idxLe := Nat.zero_le 512
  limitRange := ⟨Nat.succ_pos 511, le_rfl⟩
  slots := reset_memWf
  padLength := List.length_replicate

/-- Settles O8: the first state is idle with the code 0x00 in STATUS, nothing pending and no read transfer. -/
theorem resetMeetsInvariants : Obligations.ResetMeetsInvariants :=
  inv_of_idle wellSized_reset reset_phase (isCode_toByte .ok) reset_pend (by simp)

/-! ## The operation -/

/-- What RESET leaves: the first state, but for the slots (R291), the pass-through bytes, which are as many as the window of `s` has
(R31), and the model's own fields. -/
def resetFrom (s : State) : State :=
  { State.reset with
    pad := List.replicate s.cfg.padBytes 0x00#8, slotA := s.slotA, slotB := s.slotB,
    cfg := s.cfg, inbox := s.inbox, freeIdx := s.freeIdx, result := .done }

@[simp] theorem resetFrom_pend (s : State) : (resetFrom s).pend = none := rfl
@[simp] theorem resetFrom_slotA (s : State) : (resetFrom s).slotA = s.slotA := rfl
@[simp] theorem resetFrom_slotB (s : State) : (resetFrom s).slotB = s.slotB := rfl

theorem exec_reset (s : State) : exec .reset s = .next (resetFrom s) := rfl

/-- Settles O60: RESET has a next state everywhere; FIRE is refused there because the pending completion is discarded, and the images
are the same because the slots are. -/
theorem resetStepLeavesSlots : Obligations.ResetStepLeavesSlots := by
  intro s
  have hfire : exec .fire (resetFrom s) = .refused .fireNotPending := execFire_refused (.inr (resetFrom_pend s))
  have himages : SameImages s (resetFrom s) := sameImages_of_slots (resetFrom_slotA s) (resetFrom_slotB s)
  exact ⟨resetFrom s, exec_reset s, rfl, hfire, himages⟩

end Sys2Proof.Machine
end
